-- ==== Sys2Proof/Word.lean ====
section
/-! DEFINITION. The word types of the block: every register, offset and control word is a 32-bit unsigned value (00_scope R12). -/

namespace Sys2Proof

/-- A 32-bit value: a register, an RS offset, a control word, a command word (R12). -/
abbrev Word := BitVec 32

/-- One byte of a listed RS cell. The spec itself moves whole words only (20_memory R65). -/
abbrev Byte := BitVec 8

end Sys2Proof
end

