-- ==== Sys2Proof/Config.lean ====
section
/-! DEFINITION. The configuration parameters of 00_scope R8, the reference configuration RC of 92_eei_decisions D39, and the two
free values of the model. -/

namespace Sys2Proof

/-- The three chip variants, mutually exclusive and fixed for the life of an instance (00_scope R2). -/
inductive Variant where
  | a
  | b
  | c
deriving DecidableEq, Repr

/-- The parameters of 00_scope R8. Those with one fixed value (`EF_POS_A` = 11, `FIFO_BITS_A` = 0, `POLL_LIMIT_RESET` = 3000) are
constants elsewhere. Offsets and masks are 32-bit words; counts, shifts, widths and bit positions are numbers. -/
structure Config where
  /-- `VARIANT` -/
  variant : Variant
  /-- `NUM_FIFOS` -/
  numFifos : Nat
  /-- `SLOT_COUNT`, the source's FifoWorkingSlotCount -/
  slotCount : Nat
  /-- `CTRL_BASE` -/
  ctrlBase : Word
  /-- `CTRL_SHIFT` -/
  ctrlShift : Nat
  /-- `WORK_BASE` -/
  workBase : Word
  /-- `WORK_SHIFT` -/
  workShift : Nat
  /-- `RO_BIT` -/
  roBit : Nat
  /-- `IN_USE_MASK` -/
  inUseMask : Word
  /-- `EF_WIDTH_A` -/
  efWidthA : Nat
  /-- `EF_WIDTH_B` -/
  efWidthB : Nat
  /-- `EF_WIDTH_C` -/
  efWidthC : Nat
  /-- `EF_POS_B` -/
  efPosB : Nat
  /-- `EF_POS_C` -/
  efPosC : Nat
  /-- `RESID_A` -/
  residA : Word
  /-- `RESID_B` -/
  residB : Word
  /-- `RESID_C` -/
  residC : Word
  /-- `FIFO_BITS_B` -/
  fifoBitsB : Word
  /-- `FIFO_BITS_C` -/
  fifoBitsC : Word
  /-- `HW_OWNED_MASK` -/
  hwOwnedMask : Word
deriving DecidableEq, Repr

/-- The reference configuration RC of 92_eei_decisions D39 for a variant, with the default `HW_OWNED_MASK` = `~SWF_v` written out
(R43: `~0x0004387E`, `~0x1800F07E`, `~0x0300C07E`). It serves tests and State.reset only: "they are **not** source values".
DESIGN CHOICE (log entry 2). -/
def Config.reference (v : Variant) : Config where
  variant := v
  numFifos := 4
  slotCount := 4
  ctrlBase := 0x100
  ctrlShift := 2
  workBase := 0x1000
  workShift := 4
  roBit := 31
  inUseMask := 0x00000040
  efWidthA := 3
  efWidthB := 4
  efWidthC := 2
  efPosB := 12
  efPosC := 14
  residA := 0x0000003E
  residB := 0x0000003E
  residC := 0x0000003E
  fifoBitsB := 0x00000080
  fifoBitsC := 0x00000080
  hwOwnedMask :=
    match v with
    | .a => 0xFFFBC781
    | .b => 0xE7FF0F81
    | .c => 0xFCFF3F81

/-- FREE VALUE: `draw32()`, what a control register holds after a write that lands while `read_only` is 1 (20_memory R63,
93_implementation_defined I1), one value per busy write, numbered by State's draw counter. It has no body: nothing may be proved of it.
Log entry 5. -/
opaque Config.draw32 : Nat → Word

/-- FREE VALUE: the byte at an RS address that nothing has written since power-up (10_state R49, 93_implementation_defined I2).
It has no body: nothing may be proved of it. Log entry 4. -/
opaque Config.powerUpByte : Nat → Byte

/-- `POLL_LIMIT_RESET`, the reset value of HPOLL_LIMIT (00_scope R8, 10_state R28). -/
def Config.pollLimitReset : BitVec 16 := 3000

end Sys2Proof
end

