-- ==== Sys2Proof/Machine/Layout.lean ====
section
/-! DEFINITION. What the configuration fixes: bit and mask notation (00_scope R11, R12), the field masks of the control word
(10_state R38 to R44), the RS offsets (40_bus_primitives R110, R111), the address map (20_memory R69), and when a configuration is
well-formed (00_scope R8, R10). -/

namespace Sys2Proof

/-- `bit(i)`: the value with only bit i set (R11). -/
def bit (i : Nat) : Word := 1#32 <<< i

/-- `mask(w)` = 2^w - 1 (R12). -/
def mask (w : Nat) : Word := BitVec.ofNat 32 (2 ^ w - 1)

/-- `EF_WIDTH_v` of the active variant (R39). -/
def Config.efWidth (c : Config) : Nat :=
  match c.variant with
  | .a => c.efWidthA
  | .b => c.efWidthB
  | .c => c.efWidthC

/-- `EF_POS_v` of the active variant; `EF_POS_A` = 11 (R39). -/
def Config.efPos (c : Config) : Nat :=
  match c.variant with
  | .a => 11
  | .b => c.efPosB
  | .c => c.efPosC

/-- `EF_MASK_v`, the source's `fieldMask(variant)` (R39). -/
def Config.efMask (c : Config) : Word := mask c.efWidth

/-- `XF_MASK_v` (R40): bit 18 (A), bits 27 and 28 (B), bits 24 and 25 (C). -/
def Config.xfMask (c : Config) : Word :=
  match c.variant with
  | .a => bit 18
  | .b => bit 27 ||| bit 28
  | .c => bit 24 ||| bit 25

/-- `RESID_v` of the active variant (00_scope R8). -/
def Config.resid (c : Config) : Word :=
  match c.variant with
  | .a => c.residA
  | .b => c.residB
  | .c => c.residC

/-- `FIFO_BITS_v` of the active variant; `FIFO_BITS_A` = 0 (00_scope R8). -/
def Config.fifoBits (c : Config) : Word :=
  match c.variant with
  | .a => 0
  | .b => c.fifoBitsB
  | .c => c.fifoBitsC

/-- `SWF_v`, the software field set (R42). -/
def Config.swf (c : Config) : Word := 0x0000003E ||| (c.efMask <<< c.efPos) ||| c.xfMask ||| c.inUseMask

/-- The default of `HW_OWNED_MASK`: every bit outside the known field set (R43). -/
def Config.hwOwnedDefault (c : Config) : Word := ~~~ c.swf

/-- Whether `read_only` is set in a control word: 1 means the hardware owns the register (R41, R45). -/
def Config.readOnly (c : Config) (w : Word) : Bool := w.getLsbD c.roBit

/-- The valid bit of a control word, bit 4 in every variant (R38). -/
def validBit (w : Word) : Bool := w.getLsbD 4

/-- The VARIANT code of HCONFIG (R27). -/
def Config.variantCode (c : Config) : Word :=
  match c.variant with
  | .a => 0
  | .b => 1
  | .c => 2

/-- `CTRL_OFF(f)` (R110), modulo 2^32. -/
def Config.ctrlOff (c : Config) (f : Nat) : Word := c.ctrlBase + (BitVec.ofNat 32 f <<< c.ctrlShift)

/-- `WORK_OFF(f, s)` (R111), modulo 2^32. -/
def Config.workOff (c : Config) (f : Nat) (s : Word) : Word := c.workBase + (BitVec.ofNat 32 f <<< c.workShift) + 4 * s

/-- Whether an offset is `CTRL_OFF(f)` for some f < NUM_FIFOS (20_memory R63, R69). -/
def Config.isCtrl (c : Config) (o : Word) : Bool := (List.range c.numFifos).any fun f => c.ctrlOff f == o

/-- Whether an offset is `WORK_OFF(f, s)` for some s < SLOT_COUNT (R69). -/
def Config.isWorkOf (c : Config) (f : Nat) (o : Word) : Bool :=
  (List.range c.slotCount).any fun s => c.workOff f (BitVec.ofNat 32 s) == o

/-- Whether an offset is a working-memory word of some FIFO (R69). -/
def Config.isWork (c : Config) (o : Word) : Bool := (List.range c.numFifos).any fun f => c.isWorkOf f o

/-- The counts and the widths, positions and masks of the control word are in the ranges of 00_scope R8. `RO_BIT` is held against
the active variant's `SWF_v` (log entry 19). -/
def Config.fieldsWf (c : Config) : Bool :=
  decide ((1 ≤ c.numFifos ∧ c.numFifos ≤ 256) ∧ (1 ≤ c.slotCount ∧ c.slotCount ≤ 2 ^ 16)
    ∧ (c.roBit < 32 ∧ c.swf.getLsbD c.roBit = false)
    ∧ (c.inUseMask ≠ 0 ∧ c.inUseMask.getLsbD 4 = false ∧ c.inUseMask.getLsbD c.roBit = false)
    ∧ (2 ≤ c.efWidthA ∧ 1 ≤ c.efWidthB ∧ 1 ≤ c.efWidthC)
    ∧ (11 + c.efWidthA ≤ 32 ∧ c.efPosB + c.efWidthB ≤ 32 ∧ c.efPosC + c.efWidthC ≤ 32)
    ∧ (c.residA.getLsbD 4 = true ∧ c.residB.getLsbD 4 = true ∧ c.residC.getLsbD 4 = true)
    ∧ (c.fifoBitsB.getLsbD 4 = false ∧ c.fifoBitsC.getLsbD 4 = false)
    ∧ c.hwOwnedMask.getLsbD c.roBit = true)

/-- The first RS offset after the control-register region, and after the working region (00_scope R10), as numbers. -/
def Config.ctrlEnd (c : Config) : Nat := c.ctrlBase.toNat + c.numFifos * 2 ^ c.ctrlShift

/-- See `Config.ctrlEnd`. -/
def Config.workEnd (c : Config) : Nat := c.workBase.toNat + c.numFifos * 2 ^ c.workShift

/-- The bases and shifts are in the ranges of R8, and the two regions lie below 2^32 and do not overlap (R10). -/
def Config.regionsWf (c : Config) : Bool :=
  decide ((c.ctrlBase.toNat % 4 = 0 ∧ 2 ≤ c.ctrlShift ∧ c.ctrlShift ≤ 24)
    ∧ (c.workBase.toNat % 4 = 0 ∧ 4 * c.slotCount ≤ 2 ^ c.workShift ∧ c.workShift ≤ 24)
    ∧ (c.ctrlEnd ≤ 2 ^ 32 ∧ c.workEnd ≤ 2 ^ 32)
    ∧ (c.ctrlEnd ≤ c.workBase.toNat ∨ c.workEnd ≤ c.ctrlBase.toNat))

/-- A configuration is well-formed (R10). No step has a meaning under one that is not. -/
def Config.wf (c : Config) : Bool := c.fieldsWf && c.regionsWf

end Sys2Proof
end

