-- ==== Sys2Proof/Syntax.lean ====
section
/-! DEFINITION. The syntax of the block: the four commands (one constructor per row of opcode_table.json), the Host's operations,
and the assembler lines of 30_encoding R97 to R100. -/

namespace Sys2Proof

/-- A command word with a legal opcode, its fields pulled out (30_encoding R86 to R90). Each constructor carries the bits the command
ignores (`rsvd`), because R92 keeps them in HCMD and L_CMD as written. The 32-bit operand of `clear` and `init` is not part of the
word: it is HARG at acceptance (R85). -/
inductive Instr where
  /-- CLEAR_WD, opcode 0x1, format N (R87); `rsvd` is bits 31:12. -/
  | clear (fifo : BitVec 8) (rsvd : BitVec 20)
  /-- INIT_FIFO, opcode 0x2, format N (R87); `rsvd` is bits 31:12. -/
  | init (fifo : BitVec 8) (rsvd : BitVec 20)
  /-- SET_VALIDITY, opcode 0x3, format V (R88); `rsvd` is bits 31:13. -/
  | setvalid (fifo : BitVec 8) (en : BitVec 1) (rsvd : BitVec 19)
  /-- SET_CONTROL, opcode 0x4, format C (R89); `rsvd` is bits 31:18. -/
  | setctl (fifo : BitVec 8) (ctrl : BitVec 1) (prio : BitVec 2) (empty valid xf : BitVec 1) (rsvd : BitVec 14)
deriving DecidableEq, Repr

/-- The opcode of a command (R90). -/
def Instr.opc : Instr → BitVec 4
  | .clear _ _ => 0x1
  | .init _ _ => 0x2
  | .setvalid _ _ _ => 0x3
  | .setctl _ _ _ _ _ _ _ => 0x4

/-- The FifoIndex of a command (R86). -/
def Instr.fifo : Instr → BitVec 8
  | .clear f _ => f
  | .init f _ => f
  | .setvalid f _ _ => f
  | .setctl f _ _ _ _ _ _ => f

/-- The kinds of command rejection, in the order they are checked (R96, 60_exceptions R200, R206). -/
inductive RejectKind where
  | busy
  | opc
  | fifo
deriving DecidableEq, Repr

/-- One operation of the Host. `width` is the number of bytes an HIF access moves: only 4 is admissible (44_host_access R180). -/
inductive HostOp where
  /-- `hr o`: HIF read (30_encoding R99, 44_host_access R181). -/
  | hifRead (width : Nat) (offset : Word)
  /-- `hw o, v`: HIF write (R99, R182). -/
  | hifWrite (width : Nat) (offset value : Word)
  /-- `waitidle`: repeat `hr 0x08` until bit 0 of the value read is 0 (R99). -/
  | waitIdle
  /-- The Host's own read of an RS word (20_memory R72). -/
  | rsRead (offset : Word)
  /-- The Host's own write of an RS word (20_memory R72). -/
  | rsWrite (offset value : Word)
deriving DecidableEq, Repr

/-- One assembler line (30_encoding R97, R99, R100), operands as the numbers written, before any range check. -/
inductive AsmLine where
  /-- `clear f, n` -/
  | clear (f : Nat) (n : Int)
  /-- `init f, e` -/
  | init (f e : Nat)
  /-- `setvalid f, en` -/
  | setvalid (f en : Nat)
  /-- `setctl f, ctrl, prio, empty, valid, xf` -/
  | setctl (f ctrl prio empty valid xf : Nat)
  /-- `clearall f` (R100) -/
  | clearall (f : Nat)
  /-- `arm f, ctrl, prio, empty, xf` (R100) -/
  | arm (f ctrl prio empty xf : Nat)
  /-- `disarm f` (R100) -/
  | disarm (f : Nat)
  /-- `validate f` (R100) -/
  | validate (f : Nat)
  /-- `invalidate f` (R100) -/
  | invalidate (f : Nat)
  /-- `setlimit n` (R100) -/
  | setlimit (n : Nat)
  /-- `ackstatus` (R100) -/
  | ackstatus
  /-- `hw o, v` (R99) -/
  | hw (o v : Nat)
  /-- `hr o` (R99) -/
  | hr (o : Nat)
  /-- `waitidle` (R99) -/
  | waitidle
deriving DecidableEq, Repr

end Sys2Proof
end

