-- ==== Sys2Proof/WellFormed.lean ====
section
/-! DEFINITION. Well-formedness of the syntax: a command whose FIFO exists (30_encoding R93) and an assembler line whose operands are
in range (R97, R100). A configuration's own well-formedness (00_scope R10) is `Config.wf`, in Machine/Layout.lean. -/

namespace Sys2Proof

/-- The command names one of the `numFifos` FIFOs (R93). Every other field is as wide as its encoding, so it cannot be out of range
(R94). -/
def Instr.wf (numFifos : Nat) (i : Instr) : Bool := decide (i.fifo.toNat < numFifos)

/-- The reserved bits are 0, as software should write them (R92) and as the encoder of R98 does. -/
def Instr.plain : Instr → Bool
  | .clear _ r => r == 0
  | .init _ r => r == 0
  | .setvalid _ _ r => r == 0
  | .setctl _ _ _ _ _ _ r => r == 0

/-- A FIFO operand: 0..255 (R97). -/
def asmFifoOk (f : Nat) : Bool := decide (f ≤ 255)

/-- A one-bit operand: 0..1 (R97). -/
def asmBitOk (b : Nat) : Bool := decide (b ≤ 1)

/-- Every operand of the line is in its range (R97, R100). The ranges of raw `hw` and `hr` operands are 32-bit values: DESIGN CHOICE
(log entry 13). -/
def AsmLine.wf : AsmLine → Bool
  | .clear f n => asmFifoOk f && decide (-(2 ^ 31) ≤ n) && decide (n ≤ 2 ^ 31 - 1)
  | .init f e => asmFifoOk f && decide (e ≤ 2 ^ 32 - 1)
  | .setvalid f en => asmFifoOk f && asmBitOk en
  | .setctl f ctrl prio empty valid xf =>
    asmFifoOk f && asmBitOk ctrl && decide (prio ≤ 3) && asmBitOk empty && asmBitOk valid && asmBitOk xf
  | .clearall f => asmFifoOk f
  | .arm f ctrl prio empty xf => asmFifoOk f && asmBitOk ctrl && decide (prio ≤ 3) && asmBitOk empty && asmBitOk xf
  | .disarm f => asmFifoOk f
  | .validate f => asmFifoOk f
  | .invalidate f => asmFifoOk f
  | .setlimit n => decide (n ≤ 65535)
  | .ackstatus => true
  | .hw o v => decide (o ≤ 2 ^ 32 - 1) && decide (v ≤ 2 ^ 32 - 1)
  | .hr o => decide (o ≤ 2 ^ 32 - 1)
  | .waitidle => true

end Sys2Proof
end

