-- ==== Sys2Proof/Decode.lean ====
section
/-! DEFINITION. The decoder of command words (30_encoding R85 to R96), total, rejecting by name, and the encoder (R98). -/

namespace Sys2Proof

/-- `OPC`, bits 3:0 of a command word (R86). -/
def cmdOpc (w : Word) : BitVec 4 := w.extractLsb' 0 4

/-- `FIFO`, bits 11:4 of a command word (R86). -/
def cmdFifo (w : Word) : BitVec 8 := w.extractLsb' 4 8

/-- The command a word stands for by its opcode (R90); a reserved opcode is rejected with kind OPC (R91). Reserved bits are kept
(R92). -/
def decode (w : Word) : Except RejectKind Instr :=
  match cmdOpc w with
  | 0x1 => .ok (.clear (cmdFifo w) (w.extractLsb' 12 20))
  | 0x2 => .ok (.init (cmdFifo w) (w.extractLsb' 12 20))
  | 0x3 => .ok (.setvalid (cmdFifo w) (w.extractLsb' 12 1) (w.extractLsb' 13 19))
  | 0x4 =>
    .ok (.setctl (cmdFifo w) (w.extractLsb' 12 1) (w.extractLsb' 13 2) (w.extractLsb' 15 1) (w.extractLsb' 16 1)
      (w.extractLsb' 17 1) (w.extractLsb' 18 14))
  | _ => .error .opc

/-- `decode(word, BUSY)` of R96: BUSY first, then the opcode, then the FIFO index, else the command. -/
def decodeRequest (numFifos : Nat) (busy : Bool) (w : Word) : Except RejectKind Instr :=
  if busy then .error .busy
  else
    match decode w with
    | .error k => .error k
    | .ok i => if i.wf numFifos then .ok i else .error .fifo

/-- The common part of every command word: `opc | (f << 4)` (R98). -/
def encodeHead (opc : BitVec 4) (fifo : BitVec 8) : Word := opc.setWidth 32 ||| (fifo.setWidth 32 <<< 4)

/-- The encoder of R98, which also writes back the reserved bits a constructor carries (0 in a plain command). -/
def encode : Instr → Word
  | .clear f r => encodeHead 0x1 f ||| (r.setWidth 32 <<< 12)
  | .init f r => encodeHead 0x2 f ||| (r.setWidth 32 <<< 12)
  | .setvalid f en r => encodeHead 0x3 f ||| (en.setWidth 32 <<< 12) ||| (r.setWidth 32 <<< 13)
  | .setctl f c p e v x r =>
    encodeHead 0x4 f ||| (c.setWidth 32 <<< 12) ||| (p.setWidth 32 <<< 13) ||| (e.setWidth 32 <<< 15)
      ||| (v.setWidth 32 <<< 16) ||| (x.setWidth 32 <<< 17) ||| (r.setWidth 32 <<< 18)

/-- The instruction this decoder reads from the low `nbits` bits of `w`, every bit above them 0: a command is one 32-bit word
(R85). -/
def decodeTableWord (nbits w : Nat) : Option Instr :=
  match decode (BitVec.ofNat 32 (w % 2 ^ nbits)) with
  | .ok i => some i
  | .error _ => none

end Sys2Proof
end

