-- ==== Sys2Proof/Machine/State.lean ====
section
/-! DEFINITION. The state of the block as plain data: the spec's tuple (HIF, CTL, RS, HIST) of 10_state R20, and the model's own
fields (configuration, draw counter, the Host's pending program, the schedule). -/

namespace Sys2Proof.Machine

/-- The controller's program counter analogue (10_state R31). -/
inductive Phase where
  | idle
  | clr
  | initw
  | svrd
  | svwr
  | poll
  | commit
  | flush
deriving DecidableEq, Repr

/-- The Phase-2 branch of SET_CONTROL (10_state R33, 43_set_control R154). -/
inductive Path where
  | enNew
  | enKeep
  | disNew
  | disKeep
deriving DecidableEq, Repr

/-- The events of the history (20_memory R79). -/
inductive Event where
  /-- A Host read of HIF: offset, value. -/
  | hifRd (o v : Word)
  /-- A Host write of HIF: offset, value. -/
  | hifWr (o v : Word)
  /-- Command acceptance: command word, operand, ceiling. -/
  | accept (cmd arg : Word) (lim : BitVec 16)
  /-- Command rejection. -/
  | reject (kind : RejectKind) (cmd : Word)
  /-- A Controller read of RS. -/
  | rd (o v : Word)
  /-- A Controller write of RS. -/
  | wr (o v : Word)
  /-- A Host read of RS. -/
  | hrd (o v : Word)
  /-- A Host write of RS. -/
  | hwr (o v : Word)
  /-- A Device step: offset, old word, new word. -/
  | dev (o old new : Word)
  /-- `Log(RegisterBusyTimeout, f, w)`, what the Log sink receives (60_exceptions R201). -/
  | log (f : BitVec 8) (w : Word)
  /-- The command's end. -/
  | done (cmd : Word)
deriving DecidableEq, Repr

/-- One Device step (20_memory R70), its free choices written out. -/
inductive DeviceStep where
  /-- (a): the hardware-owned bits of FCR[f] become those of x. -/
  | control (f : Nat) (x : Word)
  /-- (b): FWM[f][s] becomes x. -/
  | working (f s : Nat) (x : Word)
  /-- (c): the RS word at an offset outside both regions becomes x. -/
  | platform (o x : Word)
deriving DecidableEq, Repr

/-- Who takes the next step. Log entry 6. -/
inductive Turn where
  /-- The Controller, if a command runs (40_bus_primitives R112). -/
  | controller
  /-- The Host, with the next operation of its program. -/
  | host
  /-- The Device (20_memory R70). -/
  | device (d : DeviceStep)
  /-- The reset input (70_reset_and_hazards R230, R231). -/
  | reset
deriving DecidableEq, Repr

/-- The listed RS bytes, addresses strictly rising, no entry equal to what an unlisted byte reads as (Memory.wf, Machine/Ops.lean).
A word is the four bytes at its offset; their order inside the word is not observable (20_memory R65). Log entry 3. -/
abbrev Memory := List Host.Cell

/-- The whole state. -/
structure State where
  /-- The configuration: an argument of every step, never changed (10_state R20). MODEL's own placing: log entry 1. -/
  cfg : Config
  /-- HCMD: the last accepted command word (R22). -/
  hcmd : Word
  /-- HARG (R23). -/
  harg : Word
  /-- HSTATUS.TIMEOUT (R25). -/
  timeout : Bool
  /-- HSTATUS.ERR_BUSY (R26). -/
  errBusy : Bool
  /-- HSTATUS.ERR_OPC (R26). -/
  errOpc : Bool
  /-- HSTATUS.ERR_FIFO (R26). -/
  errFifo : Bool
  /-- HPOLL_LIMIT.LIMIT (R28). -/
  limit : BitVec 16
  /-- HPOLL_COUNT.COUNT (R29). -/
  pollCount : BitVec 17
  /-- phase (R31). -/
  phase : Phase
  /-- L_CMD: the running command's word (R32). -/
  lCmd : Word
  /-- L_ARG (R32). -/
  lArg : Word
  /-- L_LIM (R32). -/
  lLim : BitVec 16
  /-- W: the sampled control word (R33). -/
  w : Word
  /-- POLLS: reads issued so far by the current Phase 1 (R33). -/
  polls : BitVec 17
  /-- SLOT: the next working slot the current clear writes, signed (R33). -/
  slot : Word
  /-- PATH (R33). -/
  path : Path
  /-- RS (R36, R37, 20_memory R60). -/
  rs : Memory
  /-- HIST (20_memory R79), oldest event first. -/
  hist : List Event
  /-- MODEL's own: how many draws `draw32()` has given (20_memory R63). Log entry 5. -/
  draws : Nat
  /-- MODEL's own: what the Host will do, in order. Log entry 6. -/
  hostProg : List HostOp
  /-- MODEL's own: who moves next, in order; when it is empty the Controller moves while a command runs, else the Host. Log entry 6. -/
  sched : List Turn
deriving DecidableEq, Repr

/-- The block has no fault mechanism and nothing gets stuck (60_exceptions R204, R213; 93_implementation_defined): no constructor. -/
inductive Fault where
deriving DecidableEq, Repr

/-- What the model gives no meaning to. Each is SAFE: the model stops where a platform might go on. -/
inductive Refusal where
  /-- An instruction without a meaning yet: raised by a refused arm of `exec`, of which there is none. Safe. -/
  | notModelled (mnemonic : String)
  /-- Raised by every step under a configuration that is not well-formed (00_scope R10). Safe: the spec refuses it. -/
  | illFormedConfig
  /-- Raised by the Host's turn: an HIF access that is not an aligned 32-bit word at 0x00..0x1C (44_host_access R180). Safe: the spec
  refuses it. -/
  | hifAccess
  /-- Raised by the Host's turn: an RS access at an offset that is not a multiple of 4 (20_memory R60, R67). Safe: no such access
  exists. -/
  | rsMisaligned
  /-- Raised by the Host's turn: an RS access to a word of the FIFO whose command runs (20_memory R72, 93 I12). Safe: the spec refuses
  it. -/
  | rsOfRunningFifo
  /-- Raised by the Device's turn: a step that 20_memory R70 does not give the Device. Safe: the Device has no such step. -/
  | deviceStep
  /-- Raised by the Controller's turn in a state no run reaches: L_CMD holds no command although one runs. Safe (log entry 10). -/
  | runningWordIllegal
  /-- Raised by a command's meaning in a state no run reaches: `phase` is not one of that command's (10_state R35). Safe (log
  entry 10). -/
  | phaseOfAnotherCommand
deriving DecidableEq, Repr

/-- The state after reset for a given configuration and given RS contents: every HIF and controller register at its reset value, the
history empty (10_state R48, 70_reset_and_hazards R230); RS holds whatever it holds (R49). The model's own fields: no draw yet, no Host
operation pending, no turn scheduled (log entries 5, 6). -/
def State.powerUp (cfg : Config) (rs : Memory) : State where
  cfg := cfg
  hcmd := 0
  harg := 0
  timeout := false
  errBusy := false
  errOpc := false
  errFifo := false
  limit := Config.pollLimitReset
  pollCount := 0
  phase := .idle
  lCmd := 0
  lArg := 0
  lLim := 0
  w := 0
  polls := 0
  slot := 0
  path := .enNew
  rs := rs
  hist := []
  draws := 0
  hostProg := []
  sched := []

/-- The state after reset, nothing listed in RS (every RS byte a draw), in the reference configuration of variant A (DESIGN CHOICE, log
entry 2: the spec gives the OPEN parameters no value). -/
def State.reset : State := State.powerUp (Config.reference .a) []

end Sys2Proof.Machine
end

