-- ==== Sys2Proof/Machine/Ops.lean ====
section
/-! DEFINITION. The named operations over RS, the history and the registers: byte and word access to the listed memory, the bus
transactions of 20_memory R62 and R63, events, rejections, the timeout, acceptance, and the `goto` of 40_bus_primitives R114. -/

namespace Sys2Proof.Machine

/-- What an unlisted RS byte reads as: a draw (10_state R49). FREE VALUE, log entry 4. -/
def Memory.unlisted (a : Nat) : Byte := Config.powerUpByte a

/-- The byte at an address. -/
def Memory.readByte : Memory → Nat → Byte
  | [], a => Memory.unlisted a
  | (b, v) :: m, a => if b = a then v else Memory.readByte m a

/-- Lists a byte at its place in the rising order, in place of the entry there. -/
def Memory.put : Memory → Nat → Byte → Memory
  | [], a, v => [(a, v)]
  | (b, u) :: m, a, v =>
    if a < b then (a, v) :: (b, u) :: m else if a = b then (a, v) :: m else (b, u) :: Memory.put m a v

/-- Takes every entry of an address out. -/
def Memory.drop (m : Memory) (a : Nat) : Memory := m.filter fun c => !(c.1 == a)

/-- Writes a byte and keeps the canonical form: a byte that an unlisted address reads as is not listed. -/
def Memory.writeByte (m : Memory) (a : Nat) (v : Byte) : Memory :=
  if v = Memory.unlisted a then m.drop a else m.put a v

/-- The canonical form: addresses below 2^32, strictly rising, no entry equal to what an unlisted address reads as. -/
def Memory.wf : Memory → Bool
  | [] => true
  | (a, v) :: m => decide (a < 2 ^ 32) && decide (v ≠ Memory.unlisted a) && m.all (fun c => decide (a < c.1)) && Memory.wf m

/-- The address of the first byte of word `o >> 2` (20_memory R62). -/
def wordAddr (o : Word) : Nat := 4 * (o.toNat / 4)

/-- The 32-bit value RS holds at word `o >> 2`. Byte k of the word is the cell at the word's address + k: DESIGN CHOICE, not observable
(R65, log entry 3). -/
def Memory.readWord (m : Memory) (o : Word) : Word :=
  m.readByte (wordAddr o + 3) ++ m.readByte (wordAddr o + 2) ++ m.readByte (wordAddr o + 1) ++ m.readByte (wordAddr o)

/-- Writes the 32-bit value at word `o >> 2`. -/
def Memory.writeWord (m : Memory) (o v : Word) : Memory :=
  (((m.writeByte (wordAddr o) (v.extractLsb' 0 8)).writeByte (wordAddr o + 1) (v.extractLsb' 8 8)).writeByte (wordAddr o + 2)
    (v.extractLsb' 16 8)).writeByte (wordAddr o + 3) (v.extractLsb' 24 8)

/-- The RS word at an offset. -/
def State.rsWord (s : State) (o : Word) : Word := s.rs.readWord o

/-- `FCR[f]` (10_state R36). -/
def State.fcr (s : State) (f : Nat) : Word := s.rsWord (s.cfg.ctrlOff f)

/-- `FWM[f][k]` (10_state R37). -/
def State.fwm (s : State) (f k : Nat) : Word := s.rsWord (s.cfg.workOff f (BitVec.ofNat 32 k))

/-- `emit E`: appends an event to the history (00_scope R15). -/
def State.emit (s : State) (e : Event) : State := { s with hist := s.hist ++ [e] }

/-- Whether a write at this offset would land on a busy control register (20_memory R63). -/
def State.busyAt (s : State) (o : Word) : Bool := s.cfg.isCtrl o && s.cfg.readOnly (s.rsWord o)

/-- What a write does to RS (R63): the value lands, or, on a control register whose `read_only` is 1, a fresh draw does (FREE VALUE, log
entry 5). -/
def State.store (s : State) (o v : Word) : State :=
  if s.busyAt o then { s with rs := s.rs.writeWord o (Config.draw32 s.draws), draws := s.draws + 1 }
  else { s with rs := s.rs.writeWord o v }

/-- A read transaction's only effect: its event, with the value read (R62, R68). -/
def State.memRead (s : State) (o : Word) : State := s.emit (.rd o (s.rsWord o))

/-- `MemWrite(o, 4, v)`: the event, then the store (R63). -/
def State.memWrite (s : State) (o v : Word) : State := (s.emit (.wr o v)).store o v

/-- Whether a command runs: HSTATUS.BUSY (10_state R24). -/
def State.busy (s : State) : Bool := !decide (s.phase = .idle)

/-- `phase <- P`. -/
def State.goto (s : State) (p : Phase) : State := { s with phase := p }

/-- `goto DONE`: `emit Done(L_CMD)` and `phase <- IDLE` (40_bus_primitives R114). -/
def State.finish (s : State) : State := { s with hist := s.hist ++ [.done s.lCmd], phase := .idle }

/-- Where a clear sequence goes on (41_clear_init R121). -/
inductive Continuation where
  | done
  | initw
  | commit
deriving DecidableEq, Repr

/-- `goto K` of R121. -/
def State.continueAt (s : State) : Continuation → State
  | .done => s.finish
  | .initw => s.goto .initw
  | .commit => s.goto .commit

/-- `raise RegisterBusyTimeout(f, w)`: the log event and the sticky bit, and the command goes on (00_scope R15, 60_exceptions R201). The
block's only error; no state is saved and control goes nowhere (R207), so there is no return. -/
def State.raiseTimeout (s : State) (f : BitVec 8) (w : Word) : State :=
  { s with hist := s.hist ++ [.log f w], timeout := true }

/-- `reject K`: the error bit of the kind and the event, nothing else (60_exceptions R203). -/
def State.reject (s : State) (k : RejectKind) (x : Word) : State :=
  match k with
  | .busy => { s with errBusy := true, hist := s.hist ++ [.reject k x] }
  | .opc => { s with errOpc := true, hist := s.hist ++ [.reject k x] }
  | .fifo => { s with errFifo := true, hist := s.hist ++ [.reject k x] }

/-- What acceptance does before the opcode's own action: HCMD and the latches, and the event (44_host_access R183). -/
def State.accept (s : State) (x : Word) : State :=
  { s with hcmd := x, lCmd := x, lArg := s.harg, lLim := s.limit, hist := s.hist ++ [.accept x s.harg s.limit] }

/-- A reset of the block (70_reset_and_hazards R230, R231): every HIF and controller register at its reset value and the history empty,
whatever ran; RS keeps what it holds. The environment's own fields stay (log entry 15). -/
def State.doReset (s : State) : State :=
  { State.powerUp s.cfg s.rs with draws := s.draws, hostProg := s.hostProg, sched := s.sched }

end Sys2Proof.Machine
end

