-- ==== Sys2Proof/Machine/Device.lean ====
section
/-! DEFINITION. The Device's steps on RS (20_memory R70). -/

namespace Sys2Proof.Machine

/-- Puts a word into RS and records the change. A Device write is no bus transaction: rule R63's draw is not for it. -/
def State.deviceSet (s : State) (o new : Word) : State :=
  { s with rs := s.rs.writeWord o new, hist := s.hist ++ [.dev o (s.rsWord o) new] }

/-- `(old & ~HW_OWNED_MASK) | (x & HW_OWNED_MASK)` (R70). -/
def Config.deviceWord (c : Sys2Proof.Config) (old x : Word) : Word := (old &&& ~~~c.hwOwnedMask) ||| (x &&& c.hwOwnedMask)

/-- One Device step; anything R70 does not give the Device is no step of it. The event of (c) is DEDUCED from 20_memory R79 (log
entry 12). -/
def deviceStep (d : DeviceStep) (s : State) : Host.Outcome State Fault Refusal :=
  match d with
  | .control f x =>
    if f < s.cfg.numFifos then .next (s.deviceSet (s.cfg.ctrlOff f) (Config.deviceWord s.cfg (s.fcr f) x))
    else .refused .deviceStep
  | .working f k x =>
    if f < s.cfg.numFifos ∧ k < s.cfg.slotCount then .next (s.deviceSet (s.cfg.workOff f (BitVec.ofNat 32 k)) x)
    else .refused .deviceStep
  | .platform o x =>
    if o.toNat % 4 = 0 ∧ s.cfg.isCtrl o = false ∧ s.cfg.isWork o = false then .next (s.deviceSet o x)
    else .refused .deviceStep

end Sys2Proof.Machine
end

