-- ==== Sys2Proof/Machine/Operands.lean ====
section
/-! DEFINITION. Operand assembly (30_encoding R94, R95) and the control words the controller computes (41_clear_init R123,
42_set_validity R141, 43_set_control R156, R157, R159). -/

namespace Sys2Proof

/-- `count` of CLEAR_WD: `sint32(L_ARG)` (R94). -/
def clearCount (arg : Word) : Int := arg.toInt

/-- The first slot of CLEAR_WD's clear: `count - 1`, or -1 when `count < 1` (41_clear_init R120). -/
def clearFirstSlot (arg : Word) : Word := if 1 ≤ clearCount arg then arg - 1 else -1

/-- `efv` of INIT_FIFO: `L_ARG & EF_MASK_v` (R94). -/
def Config.efv (c : Config) (arg : Word) : Word := arg &&& c.efMask

/-- The first slot of a clear of the whole working memory: `SLOT_COUNT - 1` (41_clear_init R124, 43_set_control R154). -/
def Config.lastSlot (c : Config) : Word := BitVec.ofNat 32 c.slotCount - 1

/-- `INIT_WORD_v(e) = ((e & EF_MASK_v) << EF_POS_v) | IN_USE_MASK` (R123). -/
def Config.initWord (c : Config) (e : Word) : Word := (c.efv e <<< c.efPos) ||| c.inUseMask

/-- `SV_WORD(w, en) = (w & ~(0x10 | IN_USE_MASK)) | (en << 4) | IN_USE_MASK` (R141). -/
def Config.svWord (c : Config) (w : Word) (en : BitVec 1) : Word :=
  (w &&& ~~~(0x00000010 ||| c.inUseMask)) ||| (en.setWidth 32 <<< 4) ||| c.inUseMask

/-- `XF_v(x)` (R157): bit 18 (A), bits 27 and 28 (B), bits 24 and 25 (C), both bits of a pair carrying x. -/
def Config.xfBits (c : Config) (x : BitVec 1) : Word :=
  match c.variant with
  | .a => x.setWidth 32 <<< 18
  | .b => (x.setWidth 32 <<< 27) ||| (x.setWidth 32 <<< 28)
  | .c => (x.setWidth 32 <<< 24) ||| (x.setWidth 32 <<< 25)

/-- `ENWORD_v(c, p, e, x)` (R156): the enabled word, built from scratch, with the enable field from the constant 2. -/
def Config.enWord (c : Config) (ctrl : BitVec 1) (prio : BitVec 2) (empty xf : BitVec 1) : Word :=
  ((2 &&& c.efMask) <<< c.efPos) ||| (ctrl.setWidth 32 <<< 1) ||| (prio.setWidth 32 <<< 2) ||| (1#32 <<< 4) ||| c.inUseMask
    ||| (empty.setWidth 32 <<< 5) ||| c.xfBits xf

/-- `DISWORD_v(W) = (W & ~(XF_MASK_v | RESID_v)) | FIFO_BITS_v` (R159). -/
def Config.disWord (c : Config) (w : Word) : Word := (w &&& ~~~(c.xfMask ||| c.resid)) ||| c.fifoBits

end Sys2Proof

namespace Sys2Proof.Machine

/-- The Phase-2 branch for a requested `valid` and a sampled word (R154); "valid is truthy" means `valid = 1` (R95). -/
def pathOf (valid : BitVec 1) (w : Word) : Path :=
  if valid = 1 then if validBit w then .enKeep else .enNew
  else if validBit w then .disNew else .disKeep

/-- Whether the branch clears the working memory first (R154). -/
def Path.clears : Path → Bool
  | .enNew => true
  | .enKeep => false
  | .disNew => false
  | .disKeep => true

end Sys2Proof.Machine

namespace Sys2Proof

/-- The word COMMIT writes (43_set_control R160). -/
def Config.commitWord (c : Config) (p : Machine.Path) (w : Word) (ctrl : BitVec 1) (prio : BitVec 2) (empty xf : BitVec 1) : Word :=
  match p with
  | .enNew => c.enWord ctrl prio empty xf
  | .enKeep => w
  | .disNew => c.disWord w
  | .disKeep => w

end Sys2Proof
end

