-- ==== Sys2Proof/Machine/ClearInit.lean ====
section
/-! DEFINITION. CLEAR_WD and INIT_FIFO (41_clear_init R120 to R125), and the clear sequence they share with SET_CONTROL. A command's
meaning is its NEXT STEP: in IDLE its acceptance, in a phase of its own that phase's controller step (log entry 8). -/

namespace Sys2Proof.Machine

/-- The transaction of a clear step: slot SLOT becomes 0 and SLOT goes down by one (R121). -/
def State.clearSlot (s : State) (f : BitVec 8) : State :=
  { s.memWrite (s.cfg.workOff f.toNat s.slot) 0 with slot := s.slot - 1 }

/-- One controller step in phase CLR with continuation K (R121). -/
def State.clearStep (s : State) (k : Continuation) (f : BitVec 8) : State :=
  if s.slot.toInt < 0 then s.continueAt k
  else if (s.slot - 1).toInt < 0 then (s.clearSlot f).continueAt k
  else s.clearSlot f

/-- Starts a clear: SLOT and the phase (R120, R124, 43_set_control R154). -/
def State.startClear (s : State) (first : Word) : State := { s with slot := first, phase := .clr }

/-- The INITW step: the control word is written afresh (R125). -/
def State.initwStep (s : State) (f : BitVec 8) : State :=
  (s.memWrite (s.cfg.ctrlOff f.toNat) (s.cfg.initWord s.lArg)).finish

/-- CLEAR_WD (R120): acceptance, then the clear sequence to DONE. -/
def execClear (fifo : BitVec 8) (rsvd : BitVec 20) (s : State) : Host.Outcome State Fault Refusal :=
  match s.phase with
  | .idle => .next ((s.accept (encode (.clear fifo rsvd))).startClear (clearFirstSlot s.harg))
  | .clr => .next (s.clearStep .done fifo)
  | .initw | .svrd | .svwr | .poll | .commit | .flush => .refused .phaseOfAnotherCommand

/-- INIT_FIFO (R124): acceptance, the clear of every slot, then the control write. -/
def execInit (fifo : BitVec 8) (rsvd : BitVec 20) (s : State) : Host.Outcome State Fault Refusal :=
  match s.phase with
  | .idle => .next ((s.accept (encode (.init fifo rsvd))).startClear s.cfg.lastSlot)
  | .clr => .next (s.clearStep .initw fifo)
  | .initw => .next (s.initwStep fifo)
  | .svrd | .svwr | .poll | .commit | .flush => .refused .phaseOfAnotherCommand

end Sys2Proof.Machine
end

