-- ==== Sys2Proof/Machine/SetControl.lean ====
section
/-! DEFINITION. SET_CONTROL (43_set_control R150 to R165): the polled state transition. -/

namespace Sys2Proof.Machine

/-- Path selection, in the step of the last Phase-1 read (R154): PATH from the requested `valid` and W[4], then the clear or COMMIT. -/
def State.selectPath (s : State) (valid : BitVec 1) : State :=
  if (pathOf valid s.w).clears then { s.startClear s.cfg.lastSlot with path := pathOf valid s.w }
  else { s with path := pathOf valid s.w, phase := .commit }

/-- The read of one POLL step: W, POLLS and the event (R152). -/
def State.pollRead (s : State) (f : BitVec 8) : State :=
  { s.memRead (s.cfg.ctrlOff f.toNat) with w := s.fcr f.toNat, polls := s.polls + 1 }

/-- HPOLL_COUNT <- POLLS (R152, 10_state R29). -/
def State.reportPolls (s : State) : State := { s with pollCount := s.polls }

/-- What a POLL step does after its read: stop if the word is writable, else time out past the ceiling, else retry (R152, R153). -/
def State.pollDecide (s : State) (f : BitVec 8) (valid : BitVec 1) : State :=
  if s.cfg.readOnly s.w then
    if s.lLim.toNat < s.polls.toNat then ((s.raiseTimeout f s.w).reportPolls).selectPath valid
    else s.goto .poll
  else s.reportPolls.selectPath valid

/-- One controller step in phase POLL (R152). -/
def State.pollStep (s : State) (f : BitVec 8) (valid : BitVec 1) : State := (s.pollRead f).pollDecide f valid

/-- One controller step in phase COMMIT: the new word is written, without retry (R160). -/
def State.commitStep (s : State) (f : BitVec 8) (ctrl : BitVec 1) (prio : BitVec 2) (empty xf : BitVec 1) : State :=
  (s.memWrite (s.cfg.ctrlOff f.toNat) (s.cfg.commitWord s.path s.w ctrl prio empty xf)).goto .flush

/-- One controller step in phase FLUSH: a read whose value is discarded (R161). -/
def State.flushStep (s : State) (f : BitVec 8) : State := (s.memRead (s.cfg.ctrlOff f.toNat)).finish

/-- SET_CONTROL (R150): acceptance (R151), POLL, on two paths CLR, then COMMIT and FLUSH. -/
def execSetctl (fifo : BitVec 8) (ctrl : BitVec 1) (prio : BitVec 2) (empty valid xf : BitVec 1) (rsvd : BitVec 14) (s : State) :
    Host.Outcome State Fault Refusal :=
  match s.phase with
  | .idle => .next { (s.accept (encode (.setctl fifo ctrl prio empty valid xf rsvd))).goto .poll with polls := 0 }
  | .poll => .next (s.pollStep fifo valid)
  | .clr => .next (s.clearStep .commit fifo)
  | .commit => .next (s.commitStep fifo ctrl prio empty xf)
  | .flush => .next (s.flushStep fifo)
  | .initw | .svrd | .svwr => .refused .phaseOfAnotherCommand

end Sys2Proof.Machine
end

