-- ==== Sys2Proof/Machine/SetValidity.lean ====
section
/-! DEFINITION. SET_VALIDITY (42_set_validity R140 to R143): one read, one write, no poll. -/

namespace Sys2Proof.Machine

/-- The SVRD step: W is sampled (R140). -/
def State.svrdStep (s : State) (f : BitVec 8) : State :=
  { s.memRead (s.cfg.ctrlOff f.toNat) with w := s.fcr f.toNat, phase := .svwr }

/-- The SVWR step: the sampled word goes back with bit 4 = en and the in-use marker set (R140, R141). -/
def State.svwrStep (s : State) (f : BitVec 8) (en : BitVec 1) : State :=
  (s.memWrite (s.cfg.ctrlOff f.toNat) (s.cfg.svWord s.w en)).finish

/-- SET_VALIDITY (R140): acceptance, SVRD, SVWR. -/
def execSetvalid (fifo : BitVec 8) (en : BitVec 1) (rsvd : BitVec 19) (s : State) : Host.Outcome State Fault Refusal :=
  match s.phase with
  | .idle => .next ((s.accept (encode (.setvalid fifo en rsvd))).goto .svrd)
  | .svrd => .next (s.svrdStep fifo)
  | .svwr => .next (s.svwrStep fifo en)
  | .clr | .initw | .poll | .commit | .flush => .refused .phaseOfAnotherCommand

end Sys2Proof.Machine
end

