-- ==== Sys2Proof/Machine/Dispatch.lean ====
section
/-! DEFINITION. One arm per command: the next step of that command. -/

namespace Sys2Proof.Machine

open Sys2Proof

def exec (i : Instr) (s : State) : Host.Outcome State Fault Refusal :=
  match i with
  | .clear fifo rsvd => Sys2Proof.Machine.execClear fifo rsvd s
  | .init fifo rsvd => Sys2Proof.Machine.execInit fifo rsvd s
  | .setvalid fifo en rsvd => Sys2Proof.Machine.execSetvalid fifo en rsvd s
  | .setctl fifo ctrl prio empty valid xf rsvd => Sys2Proof.Machine.execSetctl fifo ctrl prio empty valid xf rsvd s

end Sys2Proof.Machine
end

