-- ==== Sys2Proof/Machine/Flags.lean ====
section
/-! DEFINITION. The flags of HSTATUS (10_state R24 to R26, R46): the word a Host read returns and the effect of a Host write. -/

namespace Sys2Proof.Machine

/-- One flag as a bit. -/
def flagBit (b : Bool) : BitVec 1 := if b then 1 else 0

/-- HSTATUS as read: `{27'b0, ERR_FIFO, ERR_OPC, ERR_BUSY, TIMEOUT, BUSY}` (44_host_access R181). -/
def State.hstatus (s : State) : Word :=
  0#27 ++ flagBit s.errFifo ++ flagBit s.errOpc ++ flagBit s.errBusy ++ flagBit s.timeout ++ flagBit s.busy

/-- A Host write of x to HSTATUS clears each sticky bit whose bit in x is 1; every other bit of x is ignored (44_host_access R184). -/
def State.clearFlags (s : State) (x : Word) : State :=
  { s with
    timeout := s.timeout && !x.getLsbD 1
    errBusy := s.errBusy && !x.getLsbD 2
    errOpc := s.errOpc && !x.getLsbD 3
    errFifo := s.errFifo && !x.getLsbD 4 }

end Sys2Proof.Machine
end

