-- ==== Sys2Proof/Machine/HostAccess.lean ====
section
/-! DEFINITION. The Host's accesses: HIF reads and writes (44_host_access R180 to R186), command requests (R183), the Host's own RS
accesses (20_memory R72), and `waitidle` (30_encoding R99). -/

namespace Sys2Proof.Machine

/-- The HIF accesses R180 admits: 32 bits wide, aligned, at 0x00 to 0x1C. -/
def hifAdmits (width : Nat) (o : Word) : Bool := decide (width = 4) && decide (o.toNat % 4 = 0) && decide (o.toNat ≤ 0x1C)

/-- The value of an HIF read (R181). -/
def State.hifValue (s : State) (o : Word) : Word :=
  match o.toNat with
  | 0x00 => s.hcmd
  | 0x04 => s.harg
  | 0x08 => s.hstatus
  | 0x0C => s.cfg.variantCode
  | 0x10 => s.limit.setWidth 32
  | 0x14 => s.pollCount.setWidth 32
  | _ => 0

/-- `HifRead(o)`: no effect but its event (R181). -/
def State.hifRead (s : State) (o : Word) : State := s.emit (.hifRd o (s.hifValue o))

/-- A command request: a Host write of x to HCMD (R183). It is decoded as R96 says; a rejection sets its error bit, an accepted command
takes its first step. -/
def requestCommand (s : State) (x : Word) : Host.Outcome State Fault Refusal :=
  match decodeRequest s.cfg.numFifos s.busy x with
  | .error k => .next (s.reject k x)
  | .ok i => exec i s

/-- `HifWrite(o, x)`: its event, then the effect of the register written (R182). -/
def hifWrite (s : State) (o x : Word) : Host.Outcome State Fault Refusal :=
  let t := s.emit (.hifWr o x)
  match o.toNat with
  | 0x00 => requestCommand t x
  | 0x04 => .next { t with harg := x }
  | 0x08 => .next (t.clearFlags x)
  | 0x10 => .next { t with limit := x.extractLsb' 0 16 }
  | _ => .next t

/-- Whether an RS word belongs to the FIFO whose command runs (20_memory R72). -/
def State.ofRunningFifo (s : State) (o : Word) : Bool :=
  s.busy && (s.cfg.ctrlOff (cmdFifo s.lCmd).toNat == o || s.cfg.isWorkOf (cmdFifo s.lCmd).toNat o)

/-- Why the model has no step for a Host RS access at this offset, if it has none (20_memory R60, R67, R72). -/
def State.rsRefusal (s : State) (o : Word) : Option Refusal :=
  if o.toNat % 4 ≠ 0 then some .rsMisaligned else if s.ofRunningFifo o then some .rsOfRunningFifo else none

/-- The Host's own read of RS, with the semantics of R62 (R72). -/
def hostRsRead (s : State) (o : Word) : Host.Outcome State Fault Refusal :=
  match s.rsRefusal o with
  | some r => .refused r
  | none => .next (s.emit (.hrd o (s.rsWord o)))

/-- The Host's own write of RS, with the semantics of R63 (R72). -/
def hostRsWrite (s : State) (o v : Word) : Host.Outcome State Fault Refusal :=
  match s.rsRefusal o with
  | some r => .refused r
  | none => .next ((s.emit (.hwr o v)).store o v)

/-- One operation of the Host, taken off its program. `waitidle` reads HSTATUS and stays in the program while BUSY is 1 (R99). -/
def hostStep (s : State) (op : HostOp) : Host.Outcome State Fault Refusal :=
  match op with
  | .hifRead width o => if hifAdmits width o then .next (s.hifRead o) else .refused .hifAccess
  | .hifWrite width o x => if hifAdmits width o then hifWrite s o x else .refused .hifAccess
  | .waitIdle =>
    if s.busy then .next { s.hifRead 0x08 with hostProg := .waitIdle :: s.hostProg } else .next (s.hifRead 0x08)
  | .rsRead o => hostRsRead s o
  | .rsWrite o v => hostRsWrite s o v

/-- The Host's turn: the next operation of its program, or nothing when it has none. -/
def hostTurn (s : State) : Host.Outcome State Fault Refusal :=
  match s.hostProg with
  | [] => .next s
  | op :: rest => hostStep { s with hostProg := rest } op

end Sys2Proof.Machine
end

