-- ==== Sys2Proof/Machine/Agents.lean ====
section
/-! DEFINITION. The turns of the agents (00_scope R3): who moves, and what the mover does. -/

namespace Sys2Proof.Machine

/-- The Controller's turn (40_bus_primitives R112): the next step of the command L_CMD holds, or nothing when none runs. -/
def controllerTurn (s : State) : Host.Outcome State Fault Refusal :=
  if s.busy then
    match decode s.lCmd with
    | .ok i => exec i s
    | .error _ => .refused .runningWordIllegal
  else .next s

/-- One turn of the agent named. -/
def takeTurn (t : Turn) (s : State) : Host.Outcome State Fault Refusal :=
  match t with
  | .controller => controllerTurn s
  | .host => hostTurn s
  | .device d => deviceStep d s
  | .reset => .next s.doReset

/-- Who moves when nothing is scheduled: the Controller while a command runs (weak fairness, 70_reset_and_hazards R251), else the Host.
Log entry 6. -/
def State.defaultTurn (s : State) : Turn := if s.busy then .controller else .host

/-- The next mover. -/
def State.nextTurn (s : State) : Turn :=
  match s.sched with
  | [] => s.defaultTurn
  | t :: _ => t

/-- The state with the next mover taken off the schedule. -/
def State.popTurn (s : State) : State := { s with sched := s.sched.tail }

end Sys2Proof.Machine
end

