-- ==== Sys2Proof/Machine/Step.lean ====
section
/-! DEFINITION. One step of the whole machine, and where it fetches its next command. -/

namespace Sys2Proof.Machine

/-- One step: the next mover's turn. An ill-formed configuration gives no step a meaning (00_scope R10). -/
def step (s : State) : Host.Outcome State Fault Refusal :=
  if s.cfg.wf then takeTurn s.nextTurn s.popTurn else .refused .illFormedConfig

/-- The state in which the very next step is the Host's write of this command word to HCMD, with no command running, so that the step
accepts it (44_host_access R183). Commands arrive as data in HCMD, not from a program memory (20_memory R64, R78). Log entry 9. -/
def State.withFetchWord (s : State) (nbits w : Nat) : State :=
  { s with
    phase := .idle
    hostProg := .hifWrite 4 0x00 (BitVec.ofNat 32 (w % 2 ^ nbits)) :: s.hostProg
    sched := .host :: s.sched }

end Sys2Proof.Machine
end

