-- ==== Sys2Proof/Machine/Assembler.lean ====
section
/-! DEFINITION. The assembler of 30_encoding R97 to R100: from a line of text to an assembler line, from an assembler line to the Host
operations it stands for. An operand out of range is refused (`none`), never masked (R97, 93_implementation_defined I8). -/

namespace Sys2Proof

/-- `hw o, v` as a Host operation (R99). -/
def hostWrite (o v : Nat) : HostOp := .hifWrite 4 (BitVec.ofNat 32 o) (BitVec.ofNat 32 v)

/-- The command a core line stands for, reserved bits 0 (R98). -/
def asmClear (f : Nat) : Instr := .clear (BitVec.ofNat 8 f) 0

/-- See `asmClear`. -/
def asmInit (f : Nat) : Instr := .init (BitVec.ofNat 8 f) 0

/-- See `asmClear`. -/
def asmSetvalid (f en : Nat) : Instr := .setvalid (BitVec.ofNat 8 f) (BitVec.ofNat 1 en) 0

/-- See `asmClear`. -/
def asmSetctl (f ctrl prio empty valid xf : Nat) : Instr :=
  .setctl (BitVec.ofNat 8 f) (BitVec.ofNat 1 ctrl) (BitVec.ofNat 2 prio) (BitVec.ofNat 1 empty) (BitVec.ofNat 1 valid)
    (BitVec.ofNat 1 xf) 0

/-- A command's host sequence without an operand: the HCMD write, then `waitidle` (R99). -/
def issue (i : Instr) : List HostOp := [.hifWrite 4 0x00 (encode i), .waitIdle]

/-- A command's host sequence with the operand HARG first (R98, R99). -/
def issueWith (arg : Word) (i : Instr) : List HostOp := .hifWrite 4 0x04 arg :: issue i

/-- The host sequence of a line whose operands are in range, for a block with `slotCount` working slots (R99, R100). -/
def AsmLine.ops (slotCount : Nat) : AsmLine → List HostOp
  | .clear f n => issueWith (BitVec.ofInt 32 n) (asmClear f)
  | .init f e => issueWith (BitVec.ofNat 32 e) (asmInit f)
  | .setvalid f en => issue (asmSetvalid f en)
  | .setctl f ctrl prio empty valid xf => issue (asmSetctl f ctrl prio empty valid xf)
  | .clearall f => issueWith (BitVec.ofNat 32 slotCount) (asmClear f)
  | .arm f ctrl prio empty xf => issue (asmSetctl f ctrl prio empty 1 xf)
  | .disarm f => issue (asmSetctl f 0 0 0 0 0)
  | .validate f => issue (asmSetvalid f 1)
  | .invalidate f => issue (asmSetvalid f 0)
  | .setlimit n => [hostWrite 0x10 n]
  | .ackstatus => [hostWrite 0x08 0x0000001E]
  | .hw o v => [hostWrite o v]
  | .hr o => [.hifRead 4 (BitVec.ofNat 32 o)]
  | .waitidle => [.waitIdle]

/-- One line assembled, or refused (R97). -/
def AsmLine.assemble (slotCount : Nat) (l : AsmLine) : Option (List HostOp) := if l.wf then some (l.ops slotCount) else none

/-- A program: its lines in order, refused as a whole if a line is. -/
def assembleProgram (slotCount : Nat) : List AsmLine → Option (List HostOp)
  | [] => some []
  | l :: ls =>
    match l.assemble slotCount, assembleProgram slotCount ls with
    | some a, some b => some (a ++ b)
    | _, _ => none

/-- Spaces and tabs. -/
def isBlank (c : Char) : Bool := c == ' ' || c == '\t'

/-- A text without the blanks around it. -/
def trimBlanks (t : List Char) : List Char := ((t.dropWhile isBlank).reverse.dropWhile isBlank).reverse

/-- A text cut at every comma. -/
def splitCommas : List Char → List (List Char)
  | [] => [[]]
  | c :: t =>
    if c == ',' then [] :: splitCommas t
    else
      match splitCommas t with
      | [] => [[c]]
      | p :: ps => (c :: p) :: ps

/-- A digit's value, below the base or not a digit. -/
def digitValue (base : Nat) (c : Char) : Option Nat :=
  let n := c.toNat
  let v := if 48 ≤ n ∧ n ≤ 57 then n - 48 else if 97 ≤ n ∧ n ≤ 102 then n - 87 else if 65 ≤ n ∧ n ≤ 70 then n - 55 else base
  if v < base then some v else none

/-- Digits read after a value already read. -/
def digitsFrom (base : Nat) : Nat → List Char → Option Nat
  | acc, [] => some acc
  | acc, c :: t =>
    match digitValue base c with
    | some d => digitsFrom base (acc * base + d) t
    | none => none

/-- A number without a sign: decimal, or hexadecimal with `0x` (R97). -/
def parseNat : List Char → Option Nat
  | '0' :: 'x' :: c :: t => digitsFrom 16 0 (c :: t)
  | c :: t => digitsFrom 10 0 (c :: t)
  | [] => none

/-- A number that may be negative in decimal, for `clear` only (R97). The sign stands right before the digits: DESIGN CHOICE (log
entry 13). -/
def parseInt : List Char → Option Int
  | '-' :: '0' :: 'x' :: _ => none
  | '-' :: t => (parseNat t).map fun n => -(n : Int)
  | t => (parseNat t).map fun n => (n : Int)

/-- The operands of a line as unsigned numbers. -/
def parseOperands : List (List Char) → Option (List Nat)
  | [] => some []
  | p :: ps =>
    match parseNat (trimBlanks p), parseOperands ps with
    | some n, some ns => some (n :: ns)
    | _, _ => none

/-- A line from its mnemonic and unsigned operands (R97, R99, R100). -/
def lineOf (mnemonic : List Char) (operands : List Nat) : Option AsmLine :=
  if mnemonic = "init".toList then
    match operands with | [f, e] => some (.init f e) | _ => none
  else if mnemonic = "setvalid".toList then
    match operands with | [f, en] => some (.setvalid f en) | _ => none
  else if mnemonic = "setctl".toList then
    match operands with | [f, c, p, e, v, x] => some (.setctl f c p e v x) | _ => none
  else if mnemonic = "clearall".toList then
    match operands with | [f] => some (.clearall f) | _ => none
  else if mnemonic = "arm".toList then
    match operands with | [f, c, p, e, x] => some (.arm f c p e x) | _ => none
  else if mnemonic = "disarm".toList then
    match operands with | [f] => some (.disarm f) | _ => none
  else if mnemonic = "validate".toList then
    match operands with | [f] => some (.validate f) | _ => none
  else if mnemonic = "invalidate".toList then
    match operands with | [f] => some (.invalidate f) | _ => none
  else if mnemonic = "setlimit".toList then
    match operands with | [n] => some (.setlimit n) | _ => none
  else if mnemonic = "ackstatus".toList then
    match operands with | [] => some .ackstatus | _ => none
  else if mnemonic = "hw".toList then
    match operands with | [o, v] => some (.hw o v) | _ => none
  else if mnemonic = "hr".toList then
    match operands with | [o] => some (.hr o) | _ => none
  else if mnemonic = "waitidle".toList then
    match operands with | [] => some .waitidle | _ => none
  else none

/-- The text of a line without its comment and the blanks around it: `;` starts a comment (R97). -/
def lineText (t : List Char) : List Char := trimBlanks (t.takeWhile fun c => !(c == ';'))

/-- The operand texts of a line: what follows the mnemonic, cut at the commas; none at all when nothing follows. -/
def operandTexts (t : List Char) : List (List Char) :=
  match trimBlanks t with
  | [] => []
  | c :: u => splitCommas (c :: u)

/-- One line of text (R97): `mnemonic operand, operand, ...`. An empty line or a comment line is no command and gives `none` here;
see `parseProgram`. Of `clear f, n` a minus sign is read on n only and refused on f, `-0` included: R97 allows a sign "for `clear` only"
without saying on which operand. DESIGN CHOICE (log entry 13). -/
def parseLine (t : List Char) : Option AsmLine :=
  let u := lineText t
  let mnemonic := u.takeWhile fun c => !isBlank c
  let operands := operandTexts (u.dropWhile fun c => !isBlank c)
  if mnemonic = "clear".toList then
    match operands with
    | [f, n] =>
      match parseNat (trimBlanks f), parseInt (trimBlanks n) with
      | some f, some n => some (.clear f n)
      | _, _ => none
    | _ => none
  else
    match parseOperands operands with
    | some ns => lineOf mnemonic ns
    | none => none

/-- A program text, one command per line (R97); lines that hold only blanks or a comment are passed over. -/
def parseProgram : List (List Char) → Option (List AsmLine)
  | [] => some []
  | t :: ts =>
    if lineText t = [] then parseProgram ts
    else
      match parseLine t, parseProgram ts with
      | some l, some ls => some (l :: ls)
      | _, _ => none

/-- From program text to the Host's program. -/
def assembleText (slotCount : Nat) (lines : List (List Char)) : Option (List HostOp) :=
  match parseProgram lines with
  | some ls => assembleProgram slotCount ls
  | none => none

end Sys2Proof
end

