-- ==== Sys2Proof/Safety.lean ====
section
/-! DEFINITION. What the claims about the block speak of: the invariant of every reachable state, the bound on the controller steps a
command has left (70_reset_and_hazards R252), the writes of a clear in their order, what the Log sink has received. -/

namespace Sys2Proof

open Machine

/-- The phases of a command's own sequence (10_state R35). -/
def Instr.owns : Instr → Phase → Bool
  | .clear _ _, p => p == .clr
  | .init _ _, p => p == .clr || p == .initw
  | .setvalid _ _ _, p => p == .svrd || p == .svwr
  | .setctl _ _ _ _ _ _ _, p => p == .poll || p == .clr || p == .commit || p == .flush

/-- SLOT stays in range while a command clears: for CLEAR_WD between -1 and `count - 1` (R120), else a slot of the FIFO (R122). -/
def Instr.slotOk (c : Config) (arg slot : Word) : Instr → Prop
  | .clear _ _ => -1 ≤ slot.toInt ∧ slot.toInt + 1 ≤ max (clearCount arg) 0
  | .init _ _ => 0 ≤ slot.toInt ∧ slot.toInt < c.slotCount
  | .setvalid _ _ _ => True
  | .setctl _ _ _ _ _ _ _ => 0 ≤ slot.toInt ∧ slot.toInt < c.slotCount

/-- What SET_CONTROL's registers hold once Phase 1 is over: the reads counted and reported, PATH chosen from the requested `valid` and the
sampled word (R152, R154), and a clear only on a path that clears. -/
def Instr.phase1Ok (s : State) : Instr → Prop
  | .setctl _ _ _ _ valid _ _ =>
    s.phase ≠ .poll → 1 ≤ s.polls.toNat ∧ s.polls.toNat ≤ s.lLim.toNat + 1 ∧ s.pollCount = s.polls ∧ s.path = pathOf valid s.w
      ∧ (s.phase = .clr → s.path.clears = true)
  | .clear _ _ => True
  | .init _ _ => True
  | .setvalid _ _ _ => True

namespace Machine

/-- Command i runs: L_CMD holds it, its FIFO exists, and phase, SLOT, POLLS and PATH are where its own sequence puts them. -/
structure State.Running (s : State) (i : Instr) : Prop where
  word : decode s.lCmd = .ok i
  fifo : i.fifo.toNat < s.cfg.numFifos
  phase : i.owns s.phase = true
  slot : s.phase = .clr → i.slotOk s.cfg s.lArg s.slot
  polls : s.phase = .poll → s.polls.toNat ≤ s.lLim.toNat
  phase1 : i.phase1Ok s

/-- The invariant of the machine: RS in its canonical form, HPOLL_COUNT in its range (R29), and either no command runs or one does
coherently. -/
structure State.Inv (s : State) : Prop where
  rs : s.rs.wf = true
  pollCount : s.pollCount.toNat ≤ 65536
  command : s.phase = .idle ∨ ∃ i, s.Running i

/-- Controller steps a clear sequence has left: one per slot still to write, one in all when there is none (R121). -/
def clearLeft (slot : Word) : Nat := if slot.toInt < 0 then 1 else (slot.toInt + 1).toNat

/-- Controller steps that follow the clear sequence of a command (R35). -/
def afterClear : Instr → Nat
  | .clear _ _ => 0
  | .init _ _ => 1
  | .setvalid _ _ _ => 0
  | .setctl _ _ _ _ _ _ _ => 2

/-- An upper bound on the controller steps to `Done` (R250, R252): in POLL one for each read the ceiling still allows, then at most a full
clear, COMMIT and FLUSH. -/
def State.remaining (s : State) : Nat :=
  match s.phase with
  | .idle => 0
  | .clr =>
    match decode s.lCmd with
    | .ok i => clearLeft s.slot + afterClear i
    | .error _ => 0
  | .initw => 1
  | .svrd => 2
  | .svwr => 1
  | .poll => (s.lLim.toNat + 1 - s.polls.toNat) + s.cfg.slotCount + 2
  | .commit => 2
  | .flush => 1

/-- The bound of R252 for a command accepted with operand `arg` and ceiling `lim`. -/
def stepBound (c : Config) (arg : Word) (lim : BitVec 16) : Instr → Nat
  | .clear _ _ => (max (clearCount arg) 1).toNat
  | .init _ _ => c.slotCount + 1
  | .setvalid _ _ _ => 2
  | .setctl _ _ _ _ _ _ _ => lim.toNat + c.slotCount + 3

/-- The Log sink's view: every `Log(RegisterBusyTimeout, f, w)` record so far (00_scope R3, 60_exceptions R201). -/
def State.logged (s : State) : List (BitVec 8 × Word) :=
  s.hist.filterMap fun e =>
    match e with
    | .log f w => some (f, w)
    | _ => none

/-- k steps of the machine, stopping at the first refusal. -/
def run : Nat → State → Host.Outcome State Fault Refusal
  | 0, s => .next s
  | k + 1, s =>
    match step s with
    | .next t => run k t
    | .fault r => .fault r
    | .refused r => .refused r

/-- The writes of a clear of n slots of FIFO f, in their order: slots n - 1 down to 0, each 0 (R121, R122). -/
def clearWrites (c : Config) (f : Nat) : Nat → List Event
  | 0 => []
  | n + 1 => .wr (c.workOff f (BitVec.ofNat 32 n)) 0 :: clearWrites c f n

end Machine

end Sys2Proof
end

