-- ==== Sys2Proof/Certificates/Slice0/Obligations.lean ====
section
/-! DEFINITION. The statements for the provers, family by family: encoding, offsets and control words, RS, acceptance and the controller
steps of each command, whole commands, the Host, the Device, reset, and the rules of the whole machine. -/

open Sys2Proof Sys2Proof.Machine

/-! ### Encoding and the assembler -/

/-- 30_encoding R86 to R90, R92, R98: decode and encode are inverse on every command and on every word with a legal opcode: no bit of a
command's encoding is dropped, the ignored bits included. -/
def Obligations.DecodeEncodeRoundTrip : Prop :=
  (∀ i : Instr, decode (encode i) = .ok i) ∧ ∀ (w : Word) (i : Instr), decode w = .ok i → encode i = w

/-- 30_encoding R96: decoding is total and answers exactly one of four ways, in this order. -/
def Obligations.DecodeRequestAnswersByOrder : Prop :=
  ∀ (n : Nat) (busy : Bool) (w : Word),
    let opc := w.extractLsb' 0 4
    let f := w.extractLsb' 4 8
    (busy = true → decodeRequest n busy w = .error .busy)
      ∧ (busy = false → (opc = 0 ∨ 5 ≤ opc.toNat) → decodeRequest n busy w = .error .opc)
      ∧ (busy = false → 1 ≤ opc.toNat → opc.toNat ≤ 4 → n ≤ f.toNat → decodeRequest n busy w = .error .fifo)
      ∧ (busy = false → f.toNat < n →
          (opc = 1 → decodeRequest n busy w = .ok (.clear f (w.extractLsb' 12 20)))
          ∧ (opc = 2 → decodeRequest n busy w = .ok (.init f (w.extractLsb' 12 20)))
          ∧ (opc = 3 → decodeRequest n busy w = .ok (.setvalid f (w.extractLsb' 12 1) (w.extractLsb' 13 19)))
          ∧ (opc = 4 → decodeRequest n busy w
              = .ok (.setctl f (w.extractLsb' 12 1) (w.extractLsb' 13 2) (w.extractLsb' 15 1) (w.extractLsb' 16 1)
                  (w.extractLsb' 17 1) (w.extractLsb' 18 14))))

/-- 30_encoding R98: the encoder's formulas, on operands in the ranges of R97, and the HARG values of `clear` and `init`. -/
def Obligations.EncoderFormulas : Prop :=
  ∀ f : Nat, f ≤ 255 →
    encode (asmClear f) = 0x00000001 ||| (BitVec.ofNat 32 f <<< 4)
      ∧ encode (asmInit f) = 0x00000002 ||| (BitVec.ofNat 32 f <<< 4)
      ∧ (∀ en : Nat, en ≤ 1 →
          encode (asmSetvalid f en) = 0x00000003 ||| (BitVec.ofNat 32 f <<< 4) ||| (BitVec.ofNat 32 en <<< 12))
      ∧ (∀ c p e v x : Nat, c ≤ 1 → p ≤ 3 → e ≤ 1 → v ≤ 1 → x ≤ 1 →
          encode (asmSetctl f c p e v x)
            = 0x00000004 ||| (BitVec.ofNat 32 f <<< 4) ||| (BitVec.ofNat 32 c <<< 12) ||| (BitVec.ofNat 32 p <<< 13)
              ||| (BitVec.ofNat 32 e <<< 15) ||| (BitVec.ofNat 32 v <<< 16) ||| (BitVec.ofNat 32 x <<< 17))
      ∧ (∀ (slots : Nat) (n : Int), -(2 ^ 31) ≤ n → n ≤ 2 ^ 31 - 1 →
          (AsmLine.clear f n).assemble slots = some [.hifWrite 4 0x04 (BitVec.ofInt 32 n), .hifWrite 4 0x00 (encode (asmClear f)), .waitIdle]
          ∧ ((BitVec.ofInt 32 n).toNat : Int) = n % 2 ^ 32)
      ∧ (∀ slots e : Nat, e ≤ 2 ^ 32 - 1 →
          (AsmLine.init f e).assemble slots = some [.hifWrite 4 0x04 (BitVec.ofNat 32 e), .hifWrite 4 0x00 (encode (asmInit f)), .waitIdle]
          ∧ (BitVec.ofNat 32 e).toNat = e)

/-- Sanity: words written out from the spec decode to the commands they stand for (95_test_vectors V1, V15, V25, E7, and the word of
`init 1, 15` in program P4), and the word of V49, whose opcode 0 is reserved, to none (30_encoding R91). -/
def Obligations.SampleWordsDecode : Prop :=
  decode 0x00000011 = .ok (.clear 1 0)
    ∧ decode 0x00000012 = .ok (.init 1 0)
    ∧ decode 0x00001003 = .ok (.setvalid 0 1 0)
    ∧ decode 0x00037024 = .ok (.setctl 2 1 3 0 1 1 0)
    ∧ decode 0x00018024 = .ok (.setctl 2 0 0 1 1 0 0)
    ∧ decode 0x000000F0 = .error .opc

/-- 30_encoding R94, R97: an operand outside its range is refused, and nothing else is; operands in range are read back as those numbers: the
FIFO index and the field operands of every command word by the decoder, clear's n from HARG as a signed count, init's e from HARG as it stands
and as efv, its low EF_WIDTH_v bits. -/
def Obligations.AssemblerChecksAndKeepsOperands : Prop :=
  (∀ slots f : Nat,
      (∀ n : Int, (AsmLine.clear f n).assemble slots = none ↔ ¬(f ≤ 255 ∧ -(2 ^ 31) ≤ n ∧ n ≤ 2 ^ 31 - 1))
        ∧ (∀ e : Nat, (AsmLine.init f e).assemble slots = none ↔ ¬(f ≤ 255 ∧ e ≤ 2 ^ 32 - 1))
        ∧ (∀ en : Nat, (AsmLine.setvalid f en).assemble slots = none ↔ ¬(f ≤ 255 ∧ en ≤ 1))
        ∧ (∀ c p e v x : Nat,
            (AsmLine.setctl f c p e v x).assemble slots = none ↔ ¬(f ≤ 255 ∧ c ≤ 1 ∧ p ≤ 3 ∧ e ≤ 1 ∧ v ≤ 1 ∧ x ≤ 1)))
    ∧ (∀ f : Nat, f ≤ 255 →
      ∃ i : BitVec 8, decode (encode (asmClear f)) = .ok (.clear i 0) ∧ decode (encode (asmInit f)) = .ok (.init i 0) ∧ i.toNat = f)
    ∧ (∀ f n : Nat, f ≤ 255 → n ≤ 1 →
      ∃ (i : BitVec 8) (en : BitVec 1), decode (encode (asmSetvalid f n)) = .ok (.setvalid i en 0) ∧ i.toNat = f ∧ en.toNat = n)
    ∧ (∀ f c p e v x : Nat, f ≤ 255 → c ≤ 1 → p ≤ 3 → e ≤ 1 → v ≤ 1 → x ≤ 1 →
      ∃ (i : BitVec 8) (c' : BitVec 1) (p' : BitVec 2) (e' v' x' : BitVec 1),
        decode (encode (asmSetctl f c p e v x)) = .ok (.setctl i c' p' e' v' x' 0)
          ∧ i.toNat = f ∧ c'.toNat = c ∧ p'.toNat = p ∧ e'.toNat = e ∧ v'.toNat = v ∧ x'.toNat = x)
    ∧ (∀ n : Int, -(2 ^ 31) ≤ n → n ≤ 2 ^ 31 - 1 → clearCount (BitVec.ofInt 32 n) = n)
    ∧ ∀ e : Nat, e ≤ 2 ^ 32 - 1 →
      (BitVec.ofNat 32 e).toNat = e ∧ ∀ c : Config, c.wf = true → (c.efv (BitVec.ofNat 32 e)).toNat = e % 2 ^ c.efWidth

/-- 30_encoding R99: the host sequence of each command mnemonic, operands in range: HARG first for `clear` and `init`, then the command
word to HCMD, then `waitidle`; and the three primitives themselves, whose operands R97 gives no range (log entry 13). -/
def Obligations.CommandHostSequences : Prop :=
  ∀ slots f : Nat, f ≤ 255 →
    (∀ n : Int, -(2 ^ 31) ≤ n → n ≤ 2 ^ 31 - 1 → (AsmLine.clear f n).assemble slots
        = some [.hifWrite 4 0x04 (BitVec.ofInt 32 n), .hifWrite 4 0x00 (encode (asmClear f)), .waitIdle])
      ∧ (∀ e : Nat, e ≤ 2 ^ 32 - 1 → (AsmLine.init f e).assemble slots
        = some [.hifWrite 4 0x04 (BitVec.ofNat 32 e), .hifWrite 4 0x00 (encode (asmInit f)), .waitIdle])
      ∧ (∀ en : Nat, en ≤ 1 → (AsmLine.setvalid f en).assemble slots
        = some [.hifWrite 4 0x00 (encode (asmSetvalid f en)), .waitIdle])
      ∧ (∀ c p e v x : Nat, c ≤ 1 → p ≤ 3 → e ≤ 1 → v ≤ 1 → x ≤ 1 → (AsmLine.setctl f c p e v x).assemble slots
        = some [.hifWrite 4 0x00 (encode (asmSetctl f c p e v x)), .waitIdle])
      ∧ (∀ o v : Nat, o ≤ 2 ^ 32 - 1 → v ≤ 2 ^ 32 - 1 →
        (AsmLine.hw o v).assemble slots = some [.hifWrite 4 (BitVec.ofNat 32 o) (BitVec.ofNat 32 v)]
          ∧ (AsmLine.hr o).assemble slots = some [.hifRead 4 (BitVec.ofNat 32 o)])
      ∧ AsmLine.waitidle.assemble slots = some [.waitIdle]

/-- 30_encoding R100: the pseudo-instructions' expansions, and the range of `setlimit`. -/
def Obligations.PseudoInstructionsExpand : Prop :=
  ∀ slots f : Nat,
    (AsmLine.clearall f).ops slots = (AsmLine.clear f slots).ops slots
      ∧ (∀ c p e x : Nat, (AsmLine.arm f c p e x).ops slots = (AsmLine.setctl f c p e 1 x).ops slots)
      ∧ (AsmLine.disarm f).ops slots = (AsmLine.setctl f 0 0 0 0 0).ops slots
      ∧ (AsmLine.validate f).ops slots = (AsmLine.setvalid f 1).ops slots
      ∧ (AsmLine.invalidate f).ops slots = (AsmLine.setvalid f 0).ops slots
      ∧ (∀ n : Nat, (AsmLine.setlimit n).ops slots = (AsmLine.hw 0x10 n).ops slots)
      ∧ (∀ n : Nat, (AsmLine.setlimit n).assemble slots = none ↔ 65535 < n)
      ∧ AsmLine.ackstatus.ops slots = (AsmLine.hw 0x08 0x0000001E).ops slots

/-! ### Offsets and control words -/

/-- 40_bus_primitives R110: the control-register offset is linear modulo 2^32, and exact for a FIFO of a well-formed block. -/
def Obligations.ControlOffsetIsLinear : Prop :=
  ∀ (c : Config) (f : Nat),
    (c.ctrlOff f).toNat = (c.ctrlBase.toNat + f * 2 ^ c.ctrlShift) % 2 ^ 32
      ∧ (c.wf = true → f < c.numFifos → (c.ctrlOff f).toNat = c.ctrlBase.toNat + f * 2 ^ c.ctrlShift)

/-- 40_bus_primitives R111: the working-slot offset is linear modulo 2^32, and exact for a slot of a well-formed block. Past the last slot
it may name another FIFO's word, a platform word, or wrap to a low offset: the last three clauses show one of each in the reference
configuration, whose values are 92_eei_decisions D39's and 40_bus_primitives R117's and no source values (log entry 2, DESIGN CHOICE). -/
def Obligations.WorkOffsetIsLinear : Prop :=
  ∀ (c : Config) (f : Nat) (s : Word),
    (c.workOff f s).toNat = (c.workBase.toNat + f * 2 ^ c.workShift + 4 * s.toNat) % 2 ^ 32
      ∧ (c.wf = true → f < c.numFifos → s.toNat < c.slotCount →
          (c.workOff f s).toNat = c.workBase.toNat + f * 2 ^ c.workShift + 4 * s.toNat)
      ∧ (Config.reference .a).workOff 2 4 = (Config.reference .a).workOff 3 0
      ∧ ((Config.reference .a).isWork ((Config.reference .a).workOff 3 4) = false
          ∧ (Config.reference .a).isCtrl ((Config.reference .a).workOff 3 4) = false)
      ∧ (Config.reference .a).workOff 0 0x3FFFFFFF = 0xFFC

/-- 20_memory R66: every offset the Controller can issue is a multiple of 4, whatever the slot. -/
def Obligations.OffsetsAreAligned : Prop :=
  ∀ (c : Config) (f : Nat) (s : Word), c.wf = true →
    (c.ctrlOff f).toNat % 4 = 0 ∧ (c.workOff f s).toNat % 4 = 0

/-- 00_scope R10, 20_memory R69: control registers and working words are all different words. -/
def Obligations.RegionsAreDisjoint : Prop :=
  ∀ (c : Config) (f g k j : Nat), c.wf = true → f < c.numFifos → g < c.numFifos → k < c.slotCount → j < c.slotCount →
    c.ctrlOff f ≠ c.workOff g (BitVec.ofNat 32 k)
      ∧ (c.ctrlOff f = c.ctrlOff g → f = g)
      ∧ (c.workOff f (BitVec.ofNat 32 k) = c.workOff g (BitVec.ofNat 32 j) → f = g ∧ k = j)

/-- 41_clear_init R123, bit by bit: the enable field holds the masked operand, the in-use marker is set, every other bit is 0, and
`read_only` is 0. That `valid` is 0 needs the enable field to lie elsewhere, which no rule states for variants B and C (N12): it is said
here of variant A. -/
def Obligations.InitWordBits : Prop :=
  ∀ (c : Config) (e : Word), c.wf = true →
    (∀ k, k < 32 → (c.initWord e).getLsbD k
      = (c.inUseMask.getLsbD k || (decide (c.efPos ≤ k) && decide (k < c.efPos + c.efWidth) && e.getLsbD (k - c.efPos))))
      ∧ c.readOnly (c.initWord e) = false
      ∧ (c.variant = .a → validBit (c.initWord e) = false)

/-- 42_set_validity R141: the formula, and bit by bit: in-use bits 1, bit 4 = en, every other bit copied. -/
def Obligations.SetValidityWordBits : Prop :=
  ∀ (c : Config) (w : Word) (en : BitVec 1), c.wf = true →
    c.svWord w en = (w &&& ~~~(0x00000010 ||| c.inUseMask)) ||| (en.setWidth 32 <<< 4) ||| c.inUseMask
      ∧ ∀ k, k < 32 → (c.svWord w en).getLsbD k
          = if c.inUseMask.getLsbD k then true else if k = 4 then en.getLsbD 0 else w.getLsbD k

/-- 43_set_control R157: the extra-flag bits of each variant. The third clause rests on the spec's own reading: "That both variant-C bits
take x is the spec's reading" (R157, 90_conflicts C1, 92_eei_decisions D16). -/
def Obligations.ExtraFlagBits : Prop :=
  ∀ (c : Config) (x : BitVec 1) (k : Nat),
    (c.variant = .a → (c.xfBits x).getLsbD k = (decide (k = 18) && x.getLsbD 0))
      ∧ (c.variant = .b → (c.xfBits x).getLsbD k = (decide (k = 27 ∨ k = 28) && x.getLsbD 0))
      ∧ (c.variant = .c → (c.xfBits x).getLsbD k = (decide (k = 24 ∨ k = 25) && x.getLsbD 0))

/-- 43_set_control R156: the enabled word's formula, bit 4 set, `read_only` and every bit outside SWF_v 0, and an enable field of width 1
left 0. -/
def Obligations.EnabledWord : Prop :=
  ∀ (c : Config) (ctrl : BitVec 1) (prio : BitVec 2) (empty xf : BitVec 1), c.wf = true →
    c.enWord ctrl prio empty xf
        = ((2 &&& mask c.efWidth) <<< c.efPos) ||| (ctrl.setWidth 32 <<< 1) ||| (prio.setWidth 32 <<< 2) ||| (1#32 <<< 4)
          ||| c.inUseMask ||| (empty.setWidth 32 <<< 5) ||| c.xfBits xf
      ∧ validBit (c.enWord ctrl prio empty xf) = true
      ∧ c.readOnly (c.enWord ctrl prio empty xf) = false
      ∧ c.enWord ctrl prio empty xf &&& ~~~c.swf = 0
      ∧ (c.efWidth = 1 → (2 &&& mask c.efWidth) <<< c.efPos = 0)

/-- 43_set_control R159: the disabled word is not valid, its extra-flag bits are those of FIFO_BITS_v, and outside XF_MASK_v, RESID_v and
FIFO_BITS_v it is the sampled word. The clauses rest on the spec's own reading of the source: "The spec reads "clear to" as clearing the
extra-flag bits and the residual-mask bits of the sampled word, then ORing FIFO_BITS_v" (R159, 92_eei_decisions D17). -/
def Obligations.DisabledWord : Prop :=
  ∀ (c : Config) (w : Word), c.wf = true →
    validBit (c.disWord w) = false
      ∧ c.disWord w &&& c.xfMask = c.fifoBits &&& c.xfMask
      ∧ ∀ k, k < 32 → c.xfMask.getLsbD k = false → c.resid.getLsbD k = false → c.fifoBits.getLsbD k = false →
          (c.disWord w).getLsbD k = w.getLsbD k

/-! ### RS transactions -/

/-- 20_memory R63: a write records Wr and then leaves the value, or, on a control register whose `read_only` is 1, the next draw; no
other byte of RS changes. That a busy register then holds any value is the spec's own reading (R63, 92_eei_decisions D25); the
draw is the model's free value (log entry 5): nothing is said of what it is. -/
def Obligations.BusWrite : Prop :=
  ∀ (s : State) (o v : Word),
    let t := s.memWrite o v
    t.hist = s.hist ++ [.wr o v]
      ∧ ((∃ f, f < s.cfg.numFifos ∧ o = s.cfg.ctrlOff f) → (s.rsWord o).getLsbD s.cfg.roBit = true →
          t.rsWord o = Config.draw32 s.draws ∧ t.draws = s.draws + 1)
      ∧ ((∀ f, f < s.cfg.numFifos → o ≠ s.cfg.ctrlOff f) ∨ (s.rsWord o).getLsbD s.cfg.roBit = false →
          t.rsWord o = v ∧ t.draws = s.draws)
      ∧ (∀ a : Nat, a / 4 ≠ o.toNat / 4 → t.rs.readByte a = s.rs.readByte a)

/-! ### Acceptance -/

/-- 44_host_access R183: what a write of x to HCMD does, rejections first, then the acceptance action of each opcode. -/
def Obligations.CommandRequest : Prop :=
  ∀ (s : State) (x : Word),
    let opc := x.extractLsb' 0 4
    let f := x.extractLsb' 4 8
    let acc : State := { s with hcmd := x, lCmd := x, lArg := s.harg, lLim := s.limit, hist := s.hist ++ [.accept x s.harg s.limit] }
    (s.phase ≠ .idle → requestCommand s x = .next { s with errBusy := true, hist := s.hist ++ [.reject .busy x] })
      ∧ (s.phase = .idle → (opc = 0 ∨ 5 ≤ opc.toNat) →
          requestCommand s x = .next { s with errOpc := true, hist := s.hist ++ [.reject .opc x] })
      ∧ (s.phase = .idle → 1 ≤ opc.toNat → opc.toNat ≤ 4 → s.cfg.numFifos ≤ f.toNat →
          requestCommand s x = .next { s with errFifo := true, hist := s.hist ++ [.reject .fifo x] })
      ∧ (s.phase = .idle → f.toNat < s.cfg.numFifos →
          (opc = 1 → requestCommand s x
            = .next { acc with slot := if 1 ≤ s.harg.toInt then s.harg - 1 else 0xFFFFFFFF, phase := .clr })
          ∧ (opc = 2 → requestCommand s x = .next { acc with slot := BitVec.ofNat 32 s.cfg.slotCount - 1, phase := .clr })
          ∧ (opc = 3 → requestCommand s x = .next { acc with phase := .svrd })
          ∧ (opc = 4 → requestCommand s x = .next { acc with polls := 0, phase := .poll }))

/-- 41_clear_init R120, R124, 42_set_validity R140: acceptance of the first three commands: the latches, the event, the phase; all else
unchanged. -/
def Obligations.AcceptClearInitSetvalid : Prop :=
  ∀ (s : State) (f : BitVec 8) (r : BitVec 20) (en : BitVec 1) (r' : BitVec 19), s.phase = .idle → f.toNat < s.cfg.numFifos →
    exec (.clear f r) s
        = .next { s with
            hcmd := encode (.clear f r), lCmd := encode (.clear f r), lArg := s.harg, lLim := s.limit
            hist := s.hist ++ [.accept (encode (.clear f r)) s.harg s.limit]
            slot := if 1 ≤ s.harg.toInt then s.harg - 1 else 0xFFFFFFFF, phase := .clr }
      ∧ exec (.init f r) s
        = .next { s with
            hcmd := encode (.init f r), lCmd := encode (.init f r), lArg := s.harg, lLim := s.limit
            hist := s.hist ++ [.accept (encode (.init f r)) s.harg s.limit]
            slot := BitVec.ofNat 32 s.cfg.slotCount - 1, phase := .clr }
      ∧ exec (.setvalid f en r') s
        = .next { s with
            hcmd := encode (.setvalid f en r'), lCmd := encode (.setvalid f en r'), lArg := s.harg, lLim := s.limit
            hist := s.hist ++ [.accept (encode (.setvalid f en r')) s.harg s.limit], phase := .svrd }

/-- 43_set_control R151: acceptance of SET_CONTROL zeroes POLLS and starts Phase 1, with no RS transaction. -/
def Obligations.AcceptSetctl : Prop :=
  ∀ (s : State) (f : BitVec 8) (c : BitVec 1) (p : BitVec 2) (e v x : BitVec 1) (r : BitVec 14), s.phase = .idle → f.toNat < s.cfg.numFifos →
    exec (.setctl f c p e v x r) s
      = .next { s with
          hcmd := encode (.setctl f c p e v x r), lCmd := encode (.setctl f c p e v x r), lArg := s.harg, lLim := s.limit
          hist := s.hist ++ [.accept (encode (.setctl f c p e v x r)) s.harg s.limit], polls := 0, phase := .poll }

/-! ### Controller steps -/

/-- 41_clear_init R121: one clear step with each continuation: with nothing to write it only goes on; else it writes 0 at the slot, counts
down, and goes on when slot 0 was written. -/
def Obligations.ClearStep : Prop :=
  ∀ (s : State) (f : BitVec 8) (r : BitVec 20) (c : BitVec 1) (p : BitVec 2) (e v x : BitVec 1) (r' : BitVec 14),
    s.phase = .clr →
    let m := s.memWrite (s.cfg.workOff f.toNat s.slot) 0x00000000
    (s.slot.toInt < 0 →
        exec (.clear f r) s = .next { s with hist := s.hist ++ [.done s.lCmd], phase := .idle }
          ∧ exec (.init f r) s = .next { s with phase := .initw }
          ∧ exec (.setctl f c p e v x r') s = .next { s with phase := .commit })
      ∧ (s.slot.toInt = 0 →
        exec (.clear f r) s = .next { m with slot := 0xFFFFFFFF, hist := m.hist ++ [.done s.lCmd], phase := .idle }
          ∧ exec (.init f r) s = .next { m with slot := 0xFFFFFFFF, phase := .initw }
          ∧ exec (.setctl f c p e v x r') s = .next { m with slot := 0xFFFFFFFF, phase := .commit })
      ∧ (0 < s.slot.toInt →
        exec (.clear f r) s = .next { m with slot := s.slot - 1 }
          ∧ exec (.init f r) s = .next { m with slot := s.slot - 1 }
          ∧ exec (.setctl f c p e v x r') s = .next { m with slot := s.slot - 1 })

/-- 41_clear_init R125: the INITW step writes the initial control word and ends the command, and no step of INIT_FIFO reads RS. -/
def Obligations.InitwStep : Prop :=
  ∀ (s : State) (f : BitVec 8) (r : BitVec 20),
    (s.phase = .initw →
      let m := s.memWrite (s.cfg.ctrlOff f.toNat) (((s.lArg &&& s.cfg.efMask) <<< s.cfg.efPos) ||| s.cfg.inUseMask)
      exec (.init f r) s = .next { m with hist := m.hist ++ [.done s.lCmd], phase := .idle })
      ∧ ∀ t, exec (.init f r) s = .next t → ∃ l, t.hist = s.hist ++ l ∧ ∀ o w, Event.rd o w ∉ l

/-- 42_set_validity R140, R141: the read of SVRD and the write of SVWR. -/
def Obligations.SetValiditySteps : Prop :=
  ∀ (s : State) (f : BitVec 8) (en : BitVec 1) (r : BitVec 19),
    let o := s.cfg.ctrlOff f.toNat
    (s.phase = .svrd →
      exec (.setvalid f en r) s = .next { s with w := s.rsWord o, hist := s.hist ++ [.rd o (s.rsWord o)], phase := .svwr })
      ∧ (s.phase = .svwr →
        let m := s.memWrite o (s.cfg.svWord s.w en)
        exec (.setvalid f en r) s = .next { m with hist := m.hist ++ [.done s.lCmd], phase := .idle })

/-- 43_set_control R152, R154: one POLL step: the read, then stop, time out or retry, `read_only` tested before the ceiling, and the path
of the table of R154 from the requested `valid` and the sampled bit 4. -/
def Obligations.PollStep : Prop :=
  ∀ (s : State) (f : BitVec 8) (c : BitVec 1) (p : BitVec 2) (e v x : BitVec 1) (r : BitVec 14), s.phase = .poll →
    let o := s.cfg.ctrlOff f.toNat
    let w := s.rsWord o
    let n := s.polls + 1
    let select : State → State := fun t =>
      if v = 1 then
        if w.getLsbD 4 then { t with path := .enKeep, phase := .commit }
        else { t with path := .enNew, phase := .clr, slot := BitVec.ofNat 32 s.cfg.slotCount - 1 }
      else if w.getLsbD 4 then { t with path := .disNew, phase := .commit }
      else { t with path := .disKeep, phase := .clr, slot := BitVec.ofNat 32 s.cfg.slotCount - 1 }
    (w.getLsbD s.cfg.roBit = false →
        exec (.setctl f c p e v x r) s
          = .next (select { s with w := w, polls := n, pollCount := n, hist := s.hist ++ [.rd o w] }))
      ∧ (w.getLsbD s.cfg.roBit = true → s.lLim.toNat < n.toNat →
        exec (.setctl f c p e v x r) s
          = .next (select { s with w := w, polls := n, pollCount := n, timeout := true, hist := s.hist ++ [.rd o w, .log f w] }))
      ∧ (w.getLsbD s.cfg.roBit = true → n.toNat ≤ s.lLim.toNat →
        exec (.setctl f c p e v x r) s = .next { s with w := w, polls := n, hist := s.hist ++ [.rd o w] })

/-- 43_set_control R160: the COMMIT step writes the word of its path (R156, R159: the latter the spec's own reading, D17), once, and goes to
FLUSH. The write is `State.memWrite`, which on a busy register leaves a draw (20_memory R63; log entry 5, see `BusWrite`). -/
def Obligations.CommitStep : Prop :=
  ∀ (s : State) (f : BitVec 8) (c : BitVec 1) (p : BitVec 2) (e v x : BitVec 1) (r : BitVec 14), s.phase = .commit →
    let o := s.cfg.ctrlOff f.toNat
    (s.path = .enNew → exec (.setctl f c p e v x r) s = .next { s.memWrite o (s.cfg.enWord c p e x) with phase := .flush })
      ∧ (s.path = .enKeep → exec (.setctl f c p e v x r) s = .next { s.memWrite o s.w with phase := .flush })
      ∧ (s.path = .disNew → exec (.setctl f c p e v x r) s
          = .next { s.memWrite o ((s.w &&& ~~~(s.cfg.xfMask ||| s.cfg.resid)) ||| s.cfg.fifoBits) with phase := .flush })
      ∧ (s.path = .disKeep → exec (.setctl f c p e v x r) s = .next { s.memWrite o s.w with phase := .flush })

/-- 43_set_control R161: the FLUSH step reads once more, discards the value and ends the command; no register and no flag changes. The
value in the event is what RS holds (log entry 23). -/
def Obligations.FlushStep : Prop :=
  ∀ (s : State) (f : BitVec 8) (c : BitVec 1) (p : BitVec 2) (e v x : BitVec 1) (r : BitVec 14), s.phase = .flush →
    let o := s.cfg.ctrlOff f.toNat
    exec (.setctl f c p e v x r) s
      = .next { s with hist := s.hist ++ [.rd o (s.rsWord o), .done s.lCmd], phase := .idle }

/-! ### Frames of the commands -/

/-- The registers a command's step leaves alone (41_clear_init R120, R124, 42_set_validity R140, 43_set_control R150, 44_host_access R183):
the Host's own registers and the error bits always; each other register but where the rules write it. -/
def Obligations.CommandRegisterFrame : Prop :=
  ∀ (i : Instr) (s t : State), exec i s = .next t →
    t.cfg = s.cfg ∧ t.harg = s.harg ∧ t.limit = s.limit ∧ t.errBusy = s.errBusy ∧ t.errOpc = s.errOpc ∧ t.errFifo = s.errFifo
      ∧ t.hostProg = s.hostProg ∧ t.sched = s.sched
      ∧ (s.phase ≠ .idle → t.hcmd = s.hcmd ∧ t.lCmd = s.lCmd ∧ t.lArg = s.lArg ∧ t.lLim = s.lLim)
      ∧ (s.phase ≠ .poll → t.timeout = s.timeout ∧ t.pollCount = s.pollCount ∧ t.path = s.path)
      ∧ (s.phase ≠ .poll → s.phase ≠ .svrd → t.w = s.w)
      ∧ (s.phase ≠ .poll → s.phase ≠ .idle → t.polls = s.polls)
      ∧ (s.phase ≠ .poll → s.phase ≠ .idle → s.phase ≠ .clr → t.slot = s.slot)

/-- The bytes of RS a command's step leaves alone: all but the four of the slot a clear step writes, or of the control register INITW, SVWR
and COMMIT write; every byte in every other phase (41_clear_init R121, R125, 42_set_validity R140, 43_set_control R160). -/
def Obligations.CommandMemoryFrame : Prop :=
  ∀ (i : Instr) (s t : State), exec i s = .next t →
    (s.phase = .clr → 0 ≤ s.slot.toInt →
        ∀ a : Nat, a / 4 ≠ (s.cfg.workOff i.fifo.toNat s.slot).toNat / 4 → t.rs.readByte a = s.rs.readByte a)
      ∧ (s.phase = .initw ∨ s.phase = .svwr ∨ s.phase = .commit →
        ∀ a : Nat, a / 4 ≠ (s.cfg.ctrlOff i.fifo.toNat).toNat / 4 → t.rs.readByte a = s.rs.readByte a)
      ∧ ((s.phase = .clr ∧ s.slot.toInt < 0) ∨ s.phase = .idle ∨ s.phase = .svrd ∨ s.phase = .poll ∨ s.phase = .flush →
        (∀ a : Nat, t.rs.readByte a = s.rs.readByte a) ∧ t.draws = s.draws)

/-! ### Whole commands -/

/-- 41_clear_init R120 to R122, no other agent scheduled (log entry 6): a clear of n + 1 slots takes n + 1 controller steps,
writes 0 at slots n down to 0 in that order, reads nothing, ends with Done, and leaves every slot it owns 0; a clear of none takes one step
and touches nothing. -/
def Obligations.ClearWdRun : Prop :=
  ∀ (s : State) (f : BitVec 8) (r : BitVec 20), s.cfg.wf = true → s.sched = [] → s.phase = .clr → decode s.lCmd = .ok (.clear f r) →
    (s.slot.toInt < 0 → run 1 s = .next { s with phase := .idle, hist := s.hist ++ [.done s.lCmd] })
      ∧ ∀ n : Nat, n < 2 ^ 31 → s.slot = BitVec.ofNat 32 n →
        ∃ t : State, run (n + 1) s = .next t
          ∧ t = { s with
              phase := .idle, slot := 0xFFFFFFFF, rs := t.rs, draws := t.draws
              hist := s.hist ++ clearWrites s.cfg f.toNat (n + 1) ++ [.done s.lCmd] }
          ∧ ∀ k, k ≤ n → k < s.cfg.slotCount → f.toNat < s.cfg.numFifos → t.fwm f.toNat k = 0

/-- 41_clear_init R122, R124, R125, 70_reset_and_hazards R250: INIT_FIFO from its first clear step, no other agent scheduled (log entry 6):
SLOT_COUNT + 1 steps, the zero writes and then the control word; all slots 0 after it, and the control word in place if the register was not
busy. -/
def Obligations.InitFifoRun : Prop :=
  ∀ (s : State) (f : BitVec 8) (r : BitVec 20), s.cfg.wf = true → s.sched = [] → s.phase = .clr → decode s.lCmd = .ok (.init f r) →
    f.toNat < s.cfg.numFifos → s.slot = BitVec.ofNat 32 s.cfg.slotCount - 1 →
    ∃ t : State, run (s.cfg.slotCount + 1) s = .next t
      ∧ t = { s with
          phase := .idle, slot := 0xFFFFFFFF, rs := t.rs, draws := t.draws
          hist := s.hist ++ clearWrites s.cfg f.toNat s.cfg.slotCount
            ++ [.wr (s.cfg.ctrlOff f.toNat) (s.cfg.initWord s.lArg), .done s.lCmd] }
      ∧ (∀ k, k < s.cfg.slotCount → t.fwm f.toNat k = 0)
      ∧ (s.cfg.readOnly (s.fcr f.toNat) = false → t.fcr f.toNat = s.cfg.initWord s.lArg ∧ t.draws = s.draws)

/-- 42_set_validity R140, R143: the two steps of SET_VALIDITY on a register that is not busy, no other agent scheduled (log entry 6), so
no Device step falls between the read and the write (`SetValiditySteps` says each step alone, whatever falls between): one read, one write,
bit 4 = en, the in-use bits set. -/
def Obligations.SetValidityRun : Prop :=
  ∀ (s : State) (f : BitVec 8) (en : BitVec 1) (r : BitVec 19), s.cfg.wf = true → s.sched = [] → s.phase = .svrd →
    decode s.lCmd = .ok (.setvalid f en r) → s.cfg.readOnly (s.fcr f.toNat) = false →
    ∃ t : State, run 2 s = .next t
      ∧ t = { s with
          phase := .idle, w := s.fcr f.toNat, rs := t.rs
          hist := s.hist ++ [.rd (s.cfg.ctrlOff f.toNat) (s.fcr f.toNat),
            .wr (s.cfg.ctrlOff f.toNat) (s.cfg.svWord (s.fcr f.toNat) en), .done s.lCmd] }
      ∧ t.fcr f.toNat = s.cfg.svWord (s.fcr f.toNat) en
      ∧ validBit (t.fcr f.toNat) = en.getLsbD 0
      ∧ t.fcr f.toNat &&& s.cfg.inUseMask = s.cfg.inUseMask

/-- 43_set_control R165, 70_reset_and_hazards R250: SET_CONTROL from the Phase-1 read that finds the register not busy, whatever number of
busy reads came before it (POLLS of them, so that R165's k is POLLS + 1), no other agent scheduled (log entry 6): that read, the clear on the
two paths that clear, the commit, the flush read; HPOLL_COUNT is k and the register then holds the committed word. The flush read's value in
the history is what RS holds (log entry 23), and the committed word of DIS_NEW is R159's, the spec's own reading (92_eei_decisions D17). -/
def Obligations.SetControlRun : Prop :=
  ∀ (s : State) (f : BitVec 8) (c : BitVec 1) (p : BitVec 2) (e v x : BitVec 1) (r : BitVec 14),
    s.cfg.wf = true → s.sched = [] → s.phase = .poll → s.polls.toNat ≤ s.lLim.toNat → decode s.lCmd = .ok (.setctl f c p e v x r) →
    f.toNat < s.cfg.numFifos → s.cfg.readOnly (s.fcr f.toNat) = false →
    let o := s.cfg.ctrlOff f.toNat
    let w := s.fcr f.toNat
    let wn := s.cfg.commitWord (pathOf v w) w c p e x
    let n := if (pathOf v w).clears then s.cfg.slotCount else 0
    ∃ t : State, run (n + 3) s = .next t
      ∧ t = { s with
          phase := .idle, w := w, polls := s.polls + 1, pollCount := s.polls + 1, path := pathOf v w, slot := t.slot, rs := t.rs
          hist := s.hist ++ [.rd o w] ++ clearWrites s.cfg f.toNat n ++ [.wr o wn, .rd o wn, .done s.lCmd] }
      ∧ t.pollCount.toNat = s.polls.toNat + 1
      ∧ t.fcr f.toNat = wn
      ∧ ((pathOf v w).clears = true → ∀ k, k < s.cfg.slotCount → t.fwm f.toNat k = 0)

/-- 43_set_control R152, R153, 60_exceptions R201: with every read busy, no other agent scheduled (log entry 6), Phase 1 issues L_LIM + 1
reads, logs RegisterBusyTimeout once, and goes on to the path of the last busy sample. -/
def Obligations.PollTimeoutRun : Prop :=
  ∀ (s : State) (f : BitVec 8) (c : BitVec 1) (p : BitVec 2) (e v x : BitVec 1) (r : BitVec 14),
    s.cfg.wf = true → s.sched = [] → s.phase = .poll → s.polls = 0 → decode s.lCmd = .ok (.setctl f c p e v x r) →
    s.cfg.readOnly (s.fcr f.toNat) = true →
    let w := s.fcr f.toNat
    ∃ t : State, run (s.lLim.toNat + 1) s = .next t
      ∧ t = { s with
          phase := if (pathOf v w).clears then .clr else .commit
          w := w, timeout := true, path := pathOf v w, slot := t.slot
          polls := BitVec.ofNat 17 (s.lLim.toNat + 1), pollCount := BitVec.ofNat 17 (s.lLim.toNat + 1)
          hist := s.hist ++ List.replicate (s.lLim.toNat + 1) (.rd (s.cfg.ctrlOff f.toNat) w) ++ [.log f w] }

/-- 70_reset_and_hazards R252: what an accepted command has left is at most the bound of R252. -/
def Obligations.AcceptedCommandIsBounded : Prop :=
  ∀ (i : Instr) (s t : State), s.cfg.wf = true → s.phase = .idle → exec i s = .next t →
    t.remaining = stepBound s.cfg s.harg s.limit i
      ∧ (∀ f c p e v x r, i = .setctl f c p e v x r → t.remaining ≤ 65535 + 2 ^ 16 + 3)

/-- 40_bus_primitives R113: a controller step of a running command never blocks and never fails, and each brings its end nearer. -/
def Obligations.ControllerNeverBlocks : Prop :=
  ∀ s : State, s.Inv → s.cfg.wf = true → s.phase ≠ .idle → s.nextTurn = .controller →
    ∃ t : State, step s = .next t ∧ t.remaining < s.remaining

/-- 40_bus_primitives R112, 44_host_access R185, 70_reset_and_hazards R244, R245: while a command runs, no step of the Host or the Device changes
the controller's registers, and none takes its end further away. -/
def Obligations.OthersLeaveTheCommandAlone : Prop :=
  ∀ s t : State, s.phase ≠ .idle → (s.nextTurn = .host ∨ ∃ d, s.nextTurn = .device d) → step s = .next t →
    t.phase = s.phase ∧ t.hcmd = s.hcmd ∧ t.lCmd = s.lCmd ∧ t.lArg = s.lArg ∧ t.lLim = s.lLim ∧ t.w = s.w ∧ t.polls = s.polls
      ∧ t.slot = s.slot ∧ t.path = s.path ∧ t.pollCount = s.pollCount ∧ t.remaining = s.remaining

/-- 70_reset_and_hazards R252: left to run, no other agent scheduled (log entry 6), every running command reaches Done within the steps it
has left. -/
def Obligations.CommandCompletes : Prop :=
  ∀ s : State, s.Inv → s.cfg.wf = true → s.phase ≠ .idle → s.sched = [] →
    ∃ (k : Nat) (t : State), k ≤ s.remaining ∧ run k s = .next t ∧ t.phase = .idle ∧ t.lCmd = s.lCmd
      ∧ t.hist.getLast? = some (.done s.lCmd)

/-- 43_set_control R150, 41_clear_init R122, R124, 20_memory R69: a controller step of INIT_FIFO, SET_VALIDITY or SET_CONTROL on FIFO f changes no
RS word but FCR[f] and FWM[f]: no other FIFO's word and no platform word. -/
def Obligations.CommandStaysInItsFifo : Prop :=
  ∀ (s t : State) (i : Instr), s.Inv → s.cfg.wf = true → s.phase ≠ .idle → s.nextTurn = .controller → decode s.lCmd = .ok i →
    (∀ f r, i ≠ .clear f r) → step s = .next t →
    ∀ o : Word, o.toNat % 4 = 0 → o ≠ s.cfg.ctrlOff i.fifo.toNat →
      (∀ k, k < s.cfg.slotCount → o ≠ s.cfg.workOff i.fifo.toNat (BitVec.ofNat 32 k)) → t.rsWord o = s.rsWord o

/-! ### The Host -/

/-- 44_host_access R181: the eight HIF reads, with no effect but the event. -/
def Obligations.HifReadTable : Prop :=
  ∀ s : State,
    let reads := fun (o v : Word) => hostStep s (.hifRead 4 o) = .next { s with hist := s.hist ++ [.hifRd o v] }
    reads 0x00 s.hcmd ∧ reads 0x04 s.harg
      ∧ reads 0x08 (0#27 ++ BitVec.ofBool s.errFifo ++ BitVec.ofBool s.errOpc ++ BitVec.ofBool s.errBusy ++ BitVec.ofBool s.timeout
          ++ BitVec.ofBool (decide (s.phase ≠ .idle)))
      ∧ reads 0x0C (match s.cfg.variant with | .a => 0 | .b => 1 | .c => 2)
      ∧ reads 0x10 (0#16 ++ s.limit) ∧ reads 0x14 (0#15 ++ s.pollCount) ∧ reads 0x18 0 ∧ reads 0x1C 0

/-- 44_host_access R182: the eight HIF writes; HCMD and HSTATUS by their own rules. -/
def Obligations.HifWriteTable : Prop :=
  ∀ (s : State) (x : Word),
    let h := fun (o : Word) => s.hist ++ [.hifWr o x]
    hostStep s (.hifWrite 4 0x00 x) = requestCommand { s with hist := h 0x00 } x
      ∧ hostStep s (.hifWrite 4 0x04 x) = .next { s with hist := h 0x04, harg := x }
      ∧ hostStep s (.hifWrite 4 0x08 x) = .next ({ s with hist := h 0x08 } |>.clearFlags x)
      ∧ hostStep s (.hifWrite 4 0x0C x) = .next { s with hist := h 0x0C }
      ∧ hostStep s (.hifWrite 4 0x10 x) = .next { s with hist := h 0x10, limit := x.extractLsb' 0 16 }
      ∧ hostStep s (.hifWrite 4 0x14 x) = .next { s with hist := h 0x14 }
      ∧ hostStep s (.hifWrite 4 0x18 x) = .next { s with hist := h 0x18 }
      ∧ hostStep s (.hifWrite 4 0x1C x) = .next { s with hist := h 0x1C }

/-- 44_host_access R184: a write of HSTATUS clears each of bits 1 to 4 whose bit is 1 and ignores the others. -/
def Obligations.HstatusWriteOneToClear : Prop :=
  ∀ (s : State) (x : Word),
    hostStep s (.hifWrite 4 0x08 x)
      = .next { s with
          hist := s.hist ++ [.hifWr 0x08 x]
          timeout := if x.getLsbD 1 then false else s.timeout
          errBusy := if x.getLsbD 2 then false else s.errBusy
          errOpc := if x.getLsbD 3 then false else s.errOpc
          errFifo := if x.getLsbD 4 then false else s.errFifo }

/-- 44_host_access R180: exactly the aligned 32-bit accesses at 0x00 to 0x1C have a step; every other is refused. -/
def Obligations.HifAdmission : Prop :=
  ∀ (s : State) (width : Nat) (o x : Word),
    ((∃ t, hostStep s (.hifRead width o) = .next t) ↔ width = 4 ∧ o.toNat % 4 = 0 ∧ o.toNat ≤ 0x1C)
      ∧ ((∃ t, hostStep s (.hifWrite width o x) = .next t) ↔ width = 4 ∧ o.toNat % 4 = 0 ∧ o.toNat ≤ 0x1C)
      ∧ (hostStep s (.hifRead width o) = .refused .hifAccess ↔ ¬(width = 4 ∧ o.toNat % 4 = 0 ∧ o.toNat ≤ 0x1C))
      ∧ (hostStep s (.hifWrite width o x) = .refused .hifAccess ↔ ¬(width = 4 ∧ o.toNat % 4 = 0 ∧ o.toNat ≤ 0x1C))

/-- 30_encoding R99: `waitidle` reads HSTATUS and comes back until it reads BUSY = 0. -/
def Obligations.WaitIdleRepeats : Prop :=
  ∀ (s : State) (rest : List HostOp), s.hostProg = .waitIdle :: rest →
    (s.phase ≠ .idle → ∃ t : State, hostTurn s = .next t ∧ t.hostProg = s.hostProg ∧ t = { s with hist := s.hist ++ [.hifRd 0x08 s.hstatus] })
      ∧ (s.phase = .idle → hostTurn s = .next { s with hostProg := rest, hist := s.hist ++ [.hifRd 0x08 s.hstatus] })

/-- 20_memory R72: the Host reads and writes RS words with the semantics of R62 and R63, but has no step on a word of the FIFO whose command
runs; nor on an offset that is not a multiple of 4, where no RS word lies (R60, R66, R67; DEDUCED, log entry 11). -/
def Obligations.HostRsAccess : Prop :=
  ∀ (s : State) (o v : Word),
    let f := (s.lCmd.extractLsb' 4 8).toNat
    let own := o = s.cfg.ctrlOff f ∨ ∃ k, k < s.cfg.slotCount ∧ o = s.cfg.workOff f (BitVec.ofNat 32 k)
    (o.toNat % 4 ≠ 0 → hostStep s (.rsRead o) = .refused .rsMisaligned ∧ hostStep s (.rsWrite o v) = .refused .rsMisaligned)
      ∧ (o.toNat % 4 = 0 → s.phase ≠ .idle → own →
        hostStep s (.rsRead o) = .refused .rsOfRunningFifo ∧ hostStep s (.rsWrite o v) = .refused .rsOfRunningFifo)
      ∧ (o.toNat % 4 = 0 → s.phase = .idle ∨ ¬own →
        hostStep s (.rsRead o) = .next { s with hist := s.hist ++ [.hrd o (s.rsWord o)] }
          ∧ ∃ t : State, hostStep s (.rsWrite o v) = .next t ∧ t = { s with rs := t.rs, draws := t.draws, hist := s.hist ++ [.hwr o v] }
              ∧ t.rs = (s.memWrite o v).rs ∧ t.draws = (s.memWrite o v).draws)

/-! ### The Device -/

/-- 20_memory R70: the three Device steps, and no other: a FIFO or slot that does not exist, a misaligned offset, and a platform step on a
word of the block have none. The event of the third is DEDUCED from R79 (log entry 12), and that words between strides are platform words from
R69 (log entry 21). -/
def Obligations.DeviceSteps : Prop :=
  ∀ (s : State) (f k : Nat) (o x : Word),
    let co := s.cfg.ctrlOff f
    let wo := s.cfg.workOff f (BitVec.ofNat 32 k)
    let new := (s.rsWord co &&& ~~~s.cfg.hwOwnedMask) ||| (x &&& s.cfg.hwOwnedMask)
    (f < s.cfg.numFifos → deviceStep (.control f x) s
        = .next { s with rs := s.rs.writeWord co new, hist := s.hist ++ [.dev co (s.rsWord co) new] })
      ∧ (f < s.cfg.numFifos → k < s.cfg.slotCount → deviceStep (.working f k x) s
        = .next { s with rs := s.rs.writeWord wo x, hist := s.hist ++ [.dev wo (s.rsWord wo) x] })
      ∧ (o.toNat % 4 = 0 → (∀ g, g < s.cfg.numFifos → o ≠ s.cfg.ctrlOff g) →
          (∀ g j, g < s.cfg.numFifos → j < s.cfg.slotCount → o ≠ s.cfg.workOff g (BitVec.ofNat 32 j)) →
          deviceStep (.platform o x) s = .next { s with rs := s.rs.writeWord o x, hist := s.hist ++ [.dev o (s.rsWord o) x] })
      ∧ (s.cfg.numFifos ≤ f → deviceStep (.control f x) s = .refused .deviceStep ∧ deviceStep (.working f k x) s = .refused .deviceStep)
      ∧ (s.cfg.slotCount ≤ k → deviceStep (.working f k x) s = .refused .deviceStep)
      ∧ (o.toNat % 4 ≠ 0 ∨ (∃ g, g < s.cfg.numFifos ∧ o = s.cfg.ctrlOff g)
          ∨ (∃ g j, g < s.cfg.numFifos ∧ j < s.cfg.slotCount ∧ o = s.cfg.workOff g (BitVec.ofNat 32 j)) →
          deviceStep (.platform o x) s = .refused .deviceStep)

/-- 10_state R43, 20_memory R70: no Device step changes a software-owned bit of any control word, nor any register. -/
def Obligations.DeviceKeepsSoftwareBits : Prop :=
  ∀ (s t : State) (d : DeviceStep), s.cfg.wf = true → deviceStep d s = .next t →
    (∀ f, f < s.cfg.numFifos → t.fcr f &&& ~~~s.cfg.hwOwnedMask = s.fcr f &&& ~~~s.cfg.hwOwnedMask)
      ∧ t = { s with rs := t.rs, hist := t.hist }

/-! ### Reset -/

/-- 10_state R48: the reset values, of every configuration and whatever RS holds: the HIF registers as the Host reads them, the controller's
registers, the history. -/
def Obligations.ResetValues : Prop :=
  ∀ (c : Config) (m : Memory),
    let s := State.powerUp c m
    s.hifValue 0x00 = 0 ∧ s.hifValue 0x04 = 0 ∧ s.hifValue 0x08 = 0
      ∧ s.hifValue 0x0C = (match c.variant with | .a => 0 | .b => 1 | .c => 2) ∧ s.hifValue 0x10 = 0x00000BB8 ∧ s.hifValue 0x14 = 0
      ∧ s.hifValue 0x18 = 0 ∧ s.hifValue 0x1C = 0
      ∧ s.phase = .idle ∧ s.lCmd = 0 ∧ s.lArg = 0 ∧ s.lLim = 0 ∧ s.w = 0 ∧ s.polls = 0 ∧ s.slot = 0 ∧ s.path = .enNew ∧ s.hist = []

/-- 70_reset_and_hazards R230, R231: a reset in any state, a running command's included, puts every register at its reset value, empties the
history (so no Done is recorded) and leaves RS as it is. That the model's own fields stay is the model's choice (log entry 15). -/
def Obligations.ResetAbandonsAndKeepsRs : Prop :=
  ∀ s : State, s.cfg.wf = true → s.nextTurn = .reset →
    ∃ t : State, step s = .next t
      ∧ t = { State.powerUp s.cfg s.rs with draws := s.draws, hostProg := s.hostProg, sched := s.sched.tail }
      ∧ t.rs = s.rs ∧ t.hist = []

/-! ### The whole machine -/

/-- A Host write of a command word to HCMD, no command running, is one step of the decoded command on the state after the write's event
(44_host_access R183). -/
def Obligations.StepRunsRequestedCommand : Prop :=
  ∀ (s : State) (x : Word) (rest : List HostOp) (i : Instr), s.cfg.wf = true → s.nextTurn = .host →
    s.hostProg = .hifWrite 4 0x00 x :: rest → s.phase = .idle → decode x = .ok i → i.wf s.cfg.numFifos = true →
    step s = exec i { s with sched := s.sched.tail, hostProg := rest, hist := s.hist ++ [.hifWr 0x00 x] }

/-- The Controller's turn while a command runs is one step of the command L_CMD holds, on the state with the turn taken off the schedule
(40_bus_primitives R112). -/
def Obligations.StepRunsRunningCommand : Prop :=
  ∀ (s : State) (i : Instr), s.cfg.wf = true → s.nextTurn = .controller → s.phase ≠ .idle → decode s.lCmd = .ok i →
    step s = exec i { s with sched := s.sched.tail }

/-- `withFetchWord` places a command word so that the very next step accepts it (log entry 9, the model's own placing). -/
def Obligations.FetchWordRunsNext : Prop :=
  ∀ (s : State) (w : Nat) (i : Instr), s.cfg.wf = true → decodeTableWord 32 w = some i → i.wf s.cfg.numFifos = true →
    step (s.withFetchWord 32 w)
      = exec i { s with phase := .idle, hist := s.hist ++ [.hifWr 0x00 (BitVec.ofNat 32 w)] }

/-- 00_scope R10: an ill-formed configuration gives no step a meaning. -/
def Obligations.IllFormedConfigIsRefused : Prop :=
  ∀ s : State, s.cfg.wf = false → step s = .refused .illFormedConfig

/-- The invariant holds right after power-up, whatever RS holds, and in the model's reset state. -/
def Obligations.InvariantAtReset : Prop :=
  (∀ (c : Config) (m : Memory), m.wf = true → (State.powerUp c m).Inv) ∧ State.reset.Inv

/-- Every step keeps the invariant: RS in canonical form, HPOLL_COUNT at most 65536, and a running command in its own phases with SLOT, POLLS and
PATH where its sequence puts them (10_state R29, R35, 40_bus_primitives R116, 43_set_control R154). -/
def Obligations.StepKeepsInvariant : Prop :=
  ∀ s t : State, s.Inv → step s = .next t → t.Inv

/-- 10_state R20: no step changes a configuration parameter. -/
def Obligations.ConfigurationNeverChanges : Prop := ∀ s t : State, step s = .next t → t.cfg = s.cfg

/-- 20_memory R79, 70_reset_and_hazards R230: every step but a reset only appends to the history. -/
def Obligations.HistoryOnlyGrows : Prop :=
  ∀ s t : State, step s = .next t → s.nextTurn ≠ .reset → ∃ l, t.hist = s.hist ++ l

/-- 10_state R25: TIMEOUT is set exactly by a Phase 1 that exceeds its ceiling, is sticky, and is cleared only by a Host write of HSTATUS with bit
1 set, or by reset, which leaves it 0. -/
def Obligations.TimeoutIsSticky : Prop :=
  ∀ s t : State, step s = .next t →
    (s.timeout = false → t.timeout = true →
        s.nextTurn = .controller ∧ s.phase = .poll ∧ ∃ f c p e v x r, decode s.lCmd = .ok (.setctl f c p e v x r)
          ∧ s.cfg.readOnly (s.fcr f.toNat) = true ∧ s.lLim.toNat < (s.polls + 1).toNat)
      ∧ (∀ f c p e v x r, s.nextTurn = .controller → s.phase = .poll → decode s.lCmd = .ok (.setctl f c p e v x r) →
          s.cfg.readOnly (s.fcr f.toNat) = true → s.lLim.toNat < (s.polls + 1).toNat → t.timeout = true)
      ∧ (s.timeout = true → t.timeout = false →
        s.nextTurn = .reset ∨ (s.nextTurn = .host ∧ ∃ x rest, s.hostProg = .hifWrite 4 0x08 x :: rest ∧ x.getLsbD 1 = true))
      ∧ (s.nextTurn = .reset → t.timeout = false)

/-- 10_state R26, 60_exceptions R203: each error bit is set only by the rejection it names, and cleared only by a Host write of HSTATUS with its
bit set, or by reset. -/
def Obligations.ErrorBitsBySource : Prop :=
  ∀ s t : State, step s = .next t →
    let asks := fun (x : Word) => s.nextTurn = .host ∧ ∃ rest, s.hostProg = .hifWrite 4 0x00 x :: rest
    let acks := fun (b : Nat) => s.nextTurn = .reset
      ∨ (s.nextTurn = .host ∧ ∃ x rest, s.hostProg = .hifWrite 4 0x08 x :: rest ∧ x.getLsbD b = true)
    (s.errBusy = false → t.errBusy = true → ∃ x, asks x ∧ s.phase ≠ .idle)
      ∧ (s.errOpc = false → t.errOpc = true → ∃ x, asks x ∧ s.phase = .idle ∧ decode x = .error .opc)
      ∧ (s.errFifo = false → t.errFifo = true → ∃ x i, asks x ∧ s.phase = .idle ∧ decode x = .ok i ∧ s.cfg.numFifos ≤ i.fifo.toNat)
      ∧ (s.errBusy = true → t.errBusy = false → acks 2) ∧ (s.errOpc = true → t.errOpc = false → acks 3)
      ∧ (s.errFifo = true → t.errFifo = false → acks 4)

/-- 10_state R29, R22, R32: HPOLL_COUNT changes only in Phase 1 or at reset; HCMD and the latches only at an acceptance or at reset. -/
def Obligations.ReportedRegistersBySource : Prop :=
  ∀ s t : State, step s = .next t → s.nextTurn ≠ .reset →
    (t.pollCount ≠ s.pollCount → s.nextTurn = .controller ∧ s.phase = .poll)
      ∧ (t.hcmd ≠ s.hcmd ∨ t.lCmd ≠ s.lCmd ∨ t.lArg ≠ s.lArg ∨ t.lLim ≠ s.lLim →
          s.nextTurn = .host ∧ s.phase = .idle ∧ t.phase ≠ .idle ∧ t.hcmd = t.lCmd ∧ t.lArg = s.harg ∧ t.lLim = s.limit)

/-- 40_bus_primitives R112, 20_memory R67: a controller step performs at most one RS transaction: what it adds to the history holds at most one
Rd or Wr, and no event of another agent. -/
def Obligations.OneTransactionPerStep : Prop :=
  ∀ s t : State, s.phase ≠ .idle → s.nextTurn = .controller → step s = .next t →
    ∃ l, t.hist = s.hist ++ l
      ∧ (l.filter fun e => match e with | .rd _ _ => true | .wr _ _ => true | _ => false).length ≤ 1
      ∧ ∀ e ∈ l, (∃ o v, e = .rd o v) ∨ (∃ o v, e = .wr o v) ∨ (∃ f w, e = .log f w) ∨ e = .done s.lCmd
end

