-- ==== Sys2Proof/Laws/Layout.lean ====
section
/-! SUPPORT. What a well-formed configuration gives (00_scope R8, R10), and the address map's tests as statements (20_memory R69). -/

namespace Sys2Proof

/-- The field constraints of a well-formed configuration. -/
theorem Config.fields_of_wf {c : Config} (h : c.wf = true) :
    (1 ≤ c.numFifos ∧ c.numFifos ≤ 256) ∧ (1 ≤ c.slotCount ∧ c.slotCount ≤ 2 ^ 16)
      ∧ (c.roBit < 32 ∧ c.swf.getLsbD c.roBit = false)
      ∧ (c.inUseMask ≠ 0 ∧ c.inUseMask.getLsbD 4 = false ∧ c.inUseMask.getLsbD c.roBit = false)
      ∧ (2 ≤ c.efWidthA ∧ 1 ≤ c.efWidthB ∧ 1 ≤ c.efWidthC)
      ∧ (11 + c.efWidthA ≤ 32 ∧ c.efPosB + c.efWidthB ≤ 32 ∧ c.efPosC + c.efWidthC ≤ 32)
      ∧ (c.residA.getLsbD 4 = true ∧ c.residB.getLsbD 4 = true ∧ c.residC.getLsbD 4 = true)
      ∧ (c.fifoBitsB.getLsbD 4 = false ∧ c.fifoBitsC.getLsbD 4 = false)
      ∧ c.hwOwnedMask.getLsbD c.roBit = true := by
  rw [Config.wf, Bool.and_eq_true] at h
  exact of_decide_eq_true h.1

/-- The region constraints of a well-formed configuration, the region ends written out. -/
theorem Config.regions_of_wf {c : Config} (h : c.wf = true) :
    (c.ctrlBase.toNat % 4 = 0 ∧ 2 ≤ c.ctrlShift ∧ c.ctrlShift ≤ 24)
      ∧ (c.workBase.toNat % 4 = 0 ∧ 4 * c.slotCount ≤ 2 ^ c.workShift ∧ c.workShift ≤ 24)
      ∧ (c.ctrlBase.toNat + c.numFifos * 2 ^ c.ctrlShift ≤ 2 ^ 32 ∧ c.workBase.toNat + c.numFifos * 2 ^ c.workShift ≤ 2 ^ 32)
      ∧ (c.ctrlBase.toNat + c.numFifos * 2 ^ c.ctrlShift ≤ c.workBase.toNat
          ∨ c.workBase.toNat + c.numFifos * 2 ^ c.workShift ≤ c.ctrlBase.toNat) := by
  rw [Config.wf, Bool.and_eq_true] at h
  exact of_decide_eq_true h.2

/-- The active variant's enable field fits in the word and has a bit (R39). -/
theorem Config.ef_of_wf {c : Config} (h : c.wf = true) : 1 ≤ c.efWidth ∧ c.efPos + c.efWidth ≤ 32 := by
  obtain ⟨-, -, -, -, hw, hp, -⟩ := Config.fields_of_wf h
  unfold Config.efWidth Config.efPos
  cases c.variant <;> simp only <;> omega

/-- The active variant's residual mask holds bit 4, its FIFO_BITS do not (00_scope R8). -/
theorem Config.disabled_of_wf {c : Config} (h : c.wf = true) : c.resid.getLsbD 4 = true ∧ c.fifoBits.getLsbD 4 = false := by
  obtain ⟨-, -, -, -, -, -, hr, hf, -⟩ := Config.fields_of_wf h
  unfold Config.resid Config.fifoBits
  cases c.variant <;> simp_all

theorem Config.isCtrl_iff (c : Config) (o : Word) : c.isCtrl o = true ↔ ∃ f, f < c.numFifos ∧ c.ctrlOff f = o := by
  simp [Config.isCtrl]

theorem Config.isWorkOf_iff (c : Config) (f : Nat) (o : Word) :
    c.isWorkOf f o = true ↔ ∃ k, k < c.slotCount ∧ c.workOff f (BitVec.ofNat 32 k) = o := by
  simp [Config.isWorkOf]

theorem Config.isWork_iff (c : Config) (o : Word) :
    c.isWork o = true ↔ ∃ f, f < c.numFifos ∧ ∃ k, k < c.slotCount ∧ c.workOff f (BitVec.ofNat 32 k) = o := by
  simp [Config.isWork, Config.isWorkOf_iff]

/-- Different aligned offsets are different words. -/
theorem word_ne_of_aligned {o p : Word} (ho : o.toNat % 4 = 0) (hp : p.toNat % 4 = 0) (h : o ≠ p) : o.toNat / 4 ≠ p.toNat / 4 := by
  intro h'
  exact h (BitVec.eq_of_toNat_eq (by omega))

end Sys2Proof
end

