-- ==== Sys2Proof/Laws/Memory.lean ====
section
/-! SUPPORT. Laws of the listed memory: read after write, other bytes and words left alone, the canonical form kept. -/

namespace Sys2Proof.Machine

/-! ### Bytes -/

theorem Memory.readByte_put (m : Memory) (a b : Nat) (v : Byte) :
    (m.put a v).readByte b = if a = b then v else m.readByte b := by
  induction m with
  | nil => simp [Memory.put, Memory.readByte]
  | cons c m ih =>
    obtain ⟨k, u⟩ := c
    simp only [Memory.put]
    split_ifs <;> simp_all [Memory.readByte]
    intro h
    omega

theorem Memory.readByte_drop (m : Memory) (a b : Nat) :
    (m.drop a).readByte b = if a = b then Memory.unlisted b else m.readByte b := by
  induction m with
  | nil => simp [Memory.drop, Memory.readByte]
  | cons c m ih =>
    obtain ⟨k, u⟩ := c
    simp only [Memory.drop] at ih
    by_cases hk : k = a
    · by_cases hb : a = b <;> simp_all [Memory.drop, Memory.readByte]
    · by_cases hb : a = b <;> simp_all [Memory.drop, Memory.readByte]

/-- Reading a byte after writing one. -/
theorem Memory.readByte_writeByte (m : Memory) (a b : Nat) (v : Byte) :
    (m.writeByte a v).readByte b = if a = b then v else m.readByte b := by
  unfold Memory.writeByte
  split
  · next h => rw [Memory.readByte_drop]; split <;> simp_all
  · exact Memory.readByte_put m a b v

/-! ### Words -/

/-- Reading a byte after writing a word: the word's four bytes are the value's, every other byte is as before. -/
theorem Memory.readByte_writeWord (m : Memory) (o v : Word) (b : Nat) :
    (m.writeWord o v).readByte b
      = if b / 4 = o.toNat / 4 then v.extractLsb' (8 * (b % 4)) 8 else m.readByte b := by
  simp only [Memory.writeWord, Memory.readByte_writeByte, wordAddr]
  have hb : b = 4 * (b / 4) + b % 4 := by omega
  have hm : b % 4 < 4 := Nat.mod_lt _ (by decide)
  by_cases h : b / 4 = o.toNat / 4
  · rw [if_pos h]
    rcases (by omega : b % 4 = 0 ∨ b % 4 = 1 ∨ b % 4 = 2 ∨ b % 4 = 3) with h' | h' | h' | h' <;> rw [h']
    · rw [if_neg (by omega), if_neg (by omega), if_neg (by omega), if_pos (by omega)]
    · rw [if_neg (by omega), if_neg (by omega), if_pos (by omega)]
    · rw [if_neg (by omega), if_pos (by omega)]
    · rw [if_pos (by omega)]
  · rw [if_neg h, if_neg (by omega), if_neg (by omega), if_neg (by omega), if_neg (by omega)]

/-- The four bytes of a word, put together again. -/
theorem append_bytes (v : Word) :
    v.extractLsb' 24 8 ++ v.extractLsb' 16 8 ++ v.extractLsb' 8 8 ++ v.extractLsb' 0 8 = v := by
  apply BitVec.eq_of_getLsbD_eq
  intro i hi
  simp only [BitVec.getLsbD_append, BitVec.getLsbD_extractLsb']
  have h24 : ∀ k, k ≤ i → k + (i - k) = i := fun k hk => by omega
  by_cases h1 : i < 8
  · simp [h1]
  by_cases h2 : i - 8 < 8
  · simp [h1, h2, h24 8 (by omega)]
  by_cases h3 : i - 8 - 8 < 8
  · simp [h1, h2, h3, show 16 + (i - 8 - 8) = i by omega]
  · simp [h1, h2, h3, show 24 + (i - 8 - 8 - 8) = i by omega, show i - 8 - 8 - 8 < 8 by omega]

/-- A word read back is the word written. -/
@[simp] theorem Memory.readWord_writeWord_same (m : Memory) (o v : Word) : (m.writeWord o v).readWord o = v := by
  simp only [Memory.readWord, Memory.readByte_writeWord, wordAddr]
  rw [if_pos (by omega), if_pos (by omega), if_pos (by omega), if_pos (by omega)]
  have h3 : 8 * ((4 * (o.toNat / 4) + 3) % 4) = 24 := by omega
  have h2 : 8 * ((4 * (o.toNat / 4) + 2) % 4) = 16 := by omega
  have h1 : 8 * ((4 * (o.toNat / 4) + 1) % 4) = 8 := by omega
  have h0 : 8 * ((4 * (o.toNat / 4)) % 4) = 0 := by omega
  rw [h3, h2, h1, h0]
  exact append_bytes v

/-- Writing a word leaves every other word alone. -/
theorem Memory.readWord_writeWord_other (m : Memory) (o p v : Word) (h : o.toNat / 4 ≠ p.toNat / 4) :
    (m.writeWord o v).readWord p = m.readWord p := by
  simp only [Memory.readWord, Memory.readByte_writeWord, wordAddr]
  rw [if_neg (by omega), if_neg (by omega), if_neg (by omega), if_neg (by omega)]

/-! ### The canonical form -/

theorem Memory.wf_cons (a : Nat) (v : Byte) (m : Memory) :
    Memory.wf ((a, v) :: m) = true
      ↔ a < 2 ^ 32 ∧ v ≠ Memory.unlisted a ∧ (∀ c ∈ m, a < c.1) ∧ Memory.wf m = true := by
  simp [Memory.wf, and_assoc]

theorem Memory.mem_put {m : Memory} {a : Nat} {v : Byte} {c : Host.Cell} (h : c ∈ m.put a v) : c = (a, v) ∨ c ∈ m := by
  induction m with
  | nil => simpa [Memory.put] using h
  | cons d m ih =>
    simp only [Memory.put] at h
    split_ifs at h <;> simp only [List.mem_cons] at h ⊢ <;> tauto

/-- Listing a byte keeps the canonical form, if the byte is not what an unlisted address reads as. -/
theorem Memory.put_wf {m : Memory} {a : Nat} {v : Byte} (hm : m.wf = true) (ha : a < 2 ^ 32) (hv : v ≠ Memory.unlisted a) :
    (m.put a v).wf = true := by
  induction m with
  | nil => exact (Memory.wf_cons _ _ _).2 ⟨ha, hv, by simp, rfl⟩
  | cons d m ih =>
    obtain ⟨b, u⟩ := d
    rw [Memory.wf_cons] at hm
    obtain ⟨hb, hu, hall, hwf⟩ := hm
    simp only [Memory.put]
    split_ifs with h1 h2
    · refine (Memory.wf_cons _ _ _).2 ⟨ha, hv, ?_, (Memory.wf_cons _ _ _).2 ⟨hb, hu, hall, hwf⟩⟩
      intro c hc
      rcases List.mem_cons.1 hc with rfl | hc
      · exact h1
      · exact h1.trans (hall c hc)
    · subst h2
      exact (Memory.wf_cons _ _ _).2 ⟨ha, hv, hall, hwf⟩
    · refine (Memory.wf_cons _ _ _).2 ⟨hb, hu, ?_, ih hwf⟩
      intro c hc
      rcases Memory.mem_put hc with rfl | hc
      · exact lt_of_le_of_ne (Nat.not_lt.1 h1) (Ne.symm h2)
      · exact hall c hc

/-- Taking entries out keeps the canonical form. -/
theorem Memory.drop_wf {m : Memory} (a : Nat) (hm : m.wf = true) : (m.drop a).wf = true := by
  induction m with
  | nil => simp [Memory.drop, Memory.wf]
  | cons d m ih =>
    obtain ⟨b, u⟩ := d
    rw [Memory.wf_cons] at hm
    obtain ⟨hb, hu, hall, hwf⟩ := hm
    simp only [Memory.drop] at ih ⊢
    rw [List.filter_cons]
    split
    · exact (Memory.wf_cons _ _ _).2 ⟨hb, hu, fun c hc => hall c (List.mem_of_mem_filter hc), ih hwf⟩
    · exact ih hwf

/-- Writing a byte keeps the canonical form. -/
theorem Memory.writeByte_wf {m : Memory} {a : Nat} (v : Byte) (hm : m.wf = true) (ha : a < 2 ^ 32) :
    (m.writeByte a v).wf = true := by
  unfold Memory.writeByte
  split
  · exact Memory.drop_wf a hm
  · next h => exact Memory.put_wf hm ha h

/-- Writing a word keeps the canonical form. -/
theorem Memory.writeWord_wf {m : Memory} (o v : Word) (hm : m.wf = true) : (m.writeWord o v).wf = true := by
  have ho : o.toNat < 2 ^ 32 := o.isLt
  unfold Memory.writeWord wordAddr
  refine Memory.writeByte_wf _ (Memory.writeByte_wf _ (Memory.writeByte_wf _ (Memory.writeByte_wf _ hm ?_) ?_) ?_) ?_ <;> omega

/-- After reset nothing is listed. -/
theorem Memory.wf_nil : Memory.wf [] = true := rfl

end Sys2Proof.Machine
end

