-- ==== Sys2Proof/Laws/State.lean ====
section
/-! SUPPORT. One lemma per field per update of State: what each named update leaves in each field. -/

namespace Sys2Proof.Machine

variable (s : State)

/-! ### emit -/

@[simp] theorem State.emit_cfg (e : Event) : (s.emit e).cfg = s.cfg := rfl
@[simp] theorem State.emit_hcmd (e : Event) : (s.emit e).hcmd = s.hcmd := rfl
@[simp] theorem State.emit_harg (e : Event) : (s.emit e).harg = s.harg := rfl
@[simp] theorem State.emit_timeout (e : Event) : (s.emit e).timeout = s.timeout := rfl
@[simp] theorem State.emit_errBusy (e : Event) : (s.emit e).errBusy = s.errBusy := rfl
@[simp] theorem State.emit_errOpc (e : Event) : (s.emit e).errOpc = s.errOpc := rfl
@[simp] theorem State.emit_errFifo (e : Event) : (s.emit e).errFifo = s.errFifo := rfl
@[simp] theorem State.emit_limit (e : Event) : (s.emit e).limit = s.limit := rfl
@[simp] theorem State.emit_pollCount (e : Event) : (s.emit e).pollCount = s.pollCount := rfl
@[simp] theorem State.emit_phase (e : Event) : (s.emit e).phase = s.phase := rfl
@[simp] theorem State.emit_lCmd (e : Event) : (s.emit e).lCmd = s.lCmd := rfl
@[simp] theorem State.emit_lArg (e : Event) : (s.emit e).lArg = s.lArg := rfl
@[simp] theorem State.emit_lLim (e : Event) : (s.emit e).lLim = s.lLim := rfl
@[simp] theorem State.emit_w (e : Event) : (s.emit e).w = s.w := rfl
@[simp] theorem State.emit_polls (e : Event) : (s.emit e).polls = s.polls := rfl
@[simp] theorem State.emit_slot (e : Event) : (s.emit e).slot = s.slot := rfl
@[simp] theorem State.emit_path (e : Event) : (s.emit e).path = s.path := rfl
@[simp] theorem State.emit_rs (e : Event) : (s.emit e).rs = s.rs := rfl
@[simp] theorem State.emit_hist (e : Event) : (s.emit e).hist = s.hist ++ [e] := rfl
@[simp] theorem State.emit_draws (e : Event) : (s.emit e).draws = s.draws := rfl
@[simp] theorem State.emit_hostProg (e : Event) : (s.emit e).hostProg = s.hostProg := rfl
@[simp] theorem State.emit_sched (e : Event) : (s.emit e).sched = s.sched := rfl

/-! ### memRead -/

@[simp] theorem State.memRead_cfg (o : Word) : (s.memRead o).cfg = s.cfg := rfl
@[simp] theorem State.memRead_hcmd (o : Word) : (s.memRead o).hcmd = s.hcmd := rfl
@[simp] theorem State.memRead_harg (o : Word) : (s.memRead o).harg = s.harg := rfl
@[simp] theorem State.memRead_timeout (o : Word) : (s.memRead o).timeout = s.timeout := rfl
@[simp] theorem State.memRead_errBusy (o : Word) : (s.memRead o).errBusy = s.errBusy := rfl
@[simp] theorem State.memRead_errOpc (o : Word) : (s.memRead o).errOpc = s.errOpc := rfl
@[simp] theorem State.memRead_errFifo (o : Word) : (s.memRead o).errFifo = s.errFifo := rfl
@[simp] theorem State.memRead_limit (o : Word) : (s.memRead o).limit = s.limit := rfl
@[simp] theorem State.memRead_pollCount (o : Word) : (s.memRead o).pollCount = s.pollCount := rfl
@[simp] theorem State.memRead_phase (o : Word) : (s.memRead o).phase = s.phase := rfl
@[simp] theorem State.memRead_lCmd (o : Word) : (s.memRead o).lCmd = s.lCmd := rfl
@[simp] theorem State.memRead_lArg (o : Word) : (s.memRead o).lArg = s.lArg := rfl
@[simp] theorem State.memRead_lLim (o : Word) : (s.memRead o).lLim = s.lLim := rfl
@[simp] theorem State.memRead_w (o : Word) : (s.memRead o).w = s.w := rfl
@[simp] theorem State.memRead_polls (o : Word) : (s.memRead o).polls = s.polls := rfl
@[simp] theorem State.memRead_slot (o : Word) : (s.memRead o).slot = s.slot := rfl
@[simp] theorem State.memRead_path (o : Word) : (s.memRead o).path = s.path := rfl
@[simp] theorem State.memRead_rs (o : Word) : (s.memRead o).rs = s.rs := rfl
@[simp] theorem State.memRead_hist (o : Word) : (s.memRead o).hist = s.hist ++ [.rd o (s.rsWord o)] := rfl
@[simp] theorem State.memRead_draws (o : Word) : (s.memRead o).draws = s.draws := rfl
@[simp] theorem State.memRead_hostProg (o : Word) : (s.memRead o).hostProg = s.hostProg := rfl
@[simp] theorem State.memRead_sched (o : Word) : (s.memRead o).sched = s.sched := rfl

/-! ### store -/

@[simp] theorem State.store_cfg (o v : Word) : (s.store o v).cfg = s.cfg := by unfold State.store; split <;> rfl
@[simp] theorem State.store_hcmd (o v : Word) : (s.store o v).hcmd = s.hcmd := by unfold State.store; split <;> rfl
@[simp] theorem State.store_harg (o v : Word) : (s.store o v).harg = s.harg := by unfold State.store; split <;> rfl
@[simp] theorem State.store_timeout (o v : Word) : (s.store o v).timeout = s.timeout := by unfold State.store; split <;> rfl
@[simp] theorem State.store_errBusy (o v : Word) : (s.store o v).errBusy = s.errBusy := by unfold State.store; split <;> rfl
@[simp] theorem State.store_errOpc (o v : Word) : (s.store o v).errOpc = s.errOpc := by unfold State.store; split <;> rfl
@[simp] theorem State.store_errFifo (o v : Word) : (s.store o v).errFifo = s.errFifo := by unfold State.store; split <;> rfl
@[simp] theorem State.store_limit (o v : Word) : (s.store o v).limit = s.limit := by unfold State.store; split <;> rfl
@[simp] theorem State.store_pollCount (o v : Word) : (s.store o v).pollCount = s.pollCount := by unfold State.store; split <;> rfl
@[simp] theorem State.store_phase (o v : Word) : (s.store o v).phase = s.phase := by unfold State.store; split <;> rfl
@[simp] theorem State.store_lCmd (o v : Word) : (s.store o v).lCmd = s.lCmd := by unfold State.store; split <;> rfl
@[simp] theorem State.store_lArg (o v : Word) : (s.store o v).lArg = s.lArg := by unfold State.store; split <;> rfl
@[simp] theorem State.store_lLim (o v : Word) : (s.store o v).lLim = s.lLim := by unfold State.store; split <;> rfl
@[simp] theorem State.store_w (o v : Word) : (s.store o v).w = s.w := by unfold State.store; split <;> rfl
@[simp] theorem State.store_polls (o v : Word) : (s.store o v).polls = s.polls := by unfold State.store; split <;> rfl
@[simp] theorem State.store_slot (o v : Word) : (s.store o v).slot = s.slot := by unfold State.store; split <;> rfl
@[simp] theorem State.store_path (o v : Word) : (s.store o v).path = s.path := by unfold State.store; split <;> rfl
@[simp] theorem State.store_hist (o v : Word) : (s.store o v).hist = s.hist := by unfold State.store; split <;> rfl
@[simp] theorem State.store_hostProg (o v : Word) : (s.store o v).hostProg = s.hostProg := by unfold State.store; split <;> rfl
@[simp] theorem State.store_sched (o v : Word) : (s.store o v).sched = s.sched := by unfold State.store; split <;> rfl

/-! ### memWrite -/

@[simp] theorem State.memWrite_cfg (o v : Word) : (s.memWrite o v).cfg = s.cfg := by simp [State.memWrite]
@[simp] theorem State.memWrite_hcmd (o v : Word) : (s.memWrite o v).hcmd = s.hcmd := by simp [State.memWrite]
@[simp] theorem State.memWrite_harg (o v : Word) : (s.memWrite o v).harg = s.harg := by simp [State.memWrite]
@[simp] theorem State.memWrite_timeout (o v : Word) : (s.memWrite o v).timeout = s.timeout := by simp [State.memWrite]
@[simp] theorem State.memWrite_errBusy (o v : Word) : (s.memWrite o v).errBusy = s.errBusy := by simp [State.memWrite]
@[simp] theorem State.memWrite_errOpc (o v : Word) : (s.memWrite o v).errOpc = s.errOpc := by simp [State.memWrite]
@[simp] theorem State.memWrite_errFifo (o v : Word) : (s.memWrite o v).errFifo = s.errFifo := by simp [State.memWrite]
@[simp] theorem State.memWrite_limit (o v : Word) : (s.memWrite o v).limit = s.limit := by simp [State.memWrite]
@[simp] theorem State.memWrite_pollCount (o v : Word) : (s.memWrite o v).pollCount = s.pollCount := by simp [State.memWrite]
@[simp] theorem State.memWrite_phase (o v : Word) : (s.memWrite o v).phase = s.phase := by simp [State.memWrite]
@[simp] theorem State.memWrite_lCmd (o v : Word) : (s.memWrite o v).lCmd = s.lCmd := by simp [State.memWrite]
@[simp] theorem State.memWrite_lArg (o v : Word) : (s.memWrite o v).lArg = s.lArg := by simp [State.memWrite]
@[simp] theorem State.memWrite_lLim (o v : Word) : (s.memWrite o v).lLim = s.lLim := by simp [State.memWrite]
@[simp] theorem State.memWrite_w (o v : Word) : (s.memWrite o v).w = s.w := by simp [State.memWrite]
@[simp] theorem State.memWrite_polls (o v : Word) : (s.memWrite o v).polls = s.polls := by simp [State.memWrite]
@[simp] theorem State.memWrite_slot (o v : Word) : (s.memWrite o v).slot = s.slot := by simp [State.memWrite]
@[simp] theorem State.memWrite_path (o v : Word) : (s.memWrite o v).path = s.path := by simp [State.memWrite]
@[simp] theorem State.memWrite_hist (o v : Word) : (s.memWrite o v).hist = s.hist ++ [.wr o v] := by simp [State.memWrite]
@[simp] theorem State.memWrite_hostProg (o v : Word) : (s.memWrite o v).hostProg = s.hostProg := by simp [State.memWrite]
@[simp] theorem State.memWrite_sched (o v : Word) : (s.memWrite o v).sched = s.sched := by simp [State.memWrite]

/-! ### goto -/

@[simp] theorem State.goto_cfg (p : Phase) : (s.goto p).cfg = s.cfg := rfl
@[simp] theorem State.goto_hcmd (p : Phase) : (s.goto p).hcmd = s.hcmd := rfl
@[simp] theorem State.goto_harg (p : Phase) : (s.goto p).harg = s.harg := rfl
@[simp] theorem State.goto_timeout (p : Phase) : (s.goto p).timeout = s.timeout := rfl
@[simp] theorem State.goto_errBusy (p : Phase) : (s.goto p).errBusy = s.errBusy := rfl
@[simp] theorem State.goto_errOpc (p : Phase) : (s.goto p).errOpc = s.errOpc := rfl
@[simp] theorem State.goto_errFifo (p : Phase) : (s.goto p).errFifo = s.errFifo := rfl
@[simp] theorem State.goto_limit (p : Phase) : (s.goto p).limit = s.limit := rfl
@[simp] theorem State.goto_pollCount (p : Phase) : (s.goto p).pollCount = s.pollCount := rfl
@[simp] theorem State.goto_phase (p : Phase) : (s.goto p).phase = p := rfl
@[simp] theorem State.goto_lCmd (p : Phase) : (s.goto p).lCmd = s.lCmd := rfl
@[simp] theorem State.goto_lArg (p : Phase) : (s.goto p).lArg = s.lArg := rfl
@[simp] theorem State.goto_lLim (p : Phase) : (s.goto p).lLim = s.lLim := rfl
@[simp] theorem State.goto_w (p : Phase) : (s.goto p).w = s.w := rfl
@[simp] theorem State.goto_polls (p : Phase) : (s.goto p).polls = s.polls := rfl
@[simp] theorem State.goto_slot (p : Phase) : (s.goto p).slot = s.slot := rfl
@[simp] theorem State.goto_path (p : Phase) : (s.goto p).path = s.path := rfl
@[simp] theorem State.goto_rs (p : Phase) : (s.goto p).rs = s.rs := rfl
@[simp] theorem State.goto_hist (p : Phase) : (s.goto p).hist = s.hist := rfl
@[simp] theorem State.goto_draws (p : Phase) : (s.goto p).draws = s.draws := rfl
@[simp] theorem State.goto_hostProg (p : Phase) : (s.goto p).hostProg = s.hostProg := rfl
@[simp] theorem State.goto_sched (p : Phase) : (s.goto p).sched = s.sched := rfl

/-! ### finish -/

@[simp] theorem State.finish_cfg : (s.finish).cfg = s.cfg := rfl
@[simp] theorem State.finish_hcmd : (s.finish).hcmd = s.hcmd := rfl
@[simp] theorem State.finish_harg : (s.finish).harg = s.harg := rfl
@[simp] theorem State.finish_timeout : (s.finish).timeout = s.timeout := rfl
@[simp] theorem State.finish_errBusy : (s.finish).errBusy = s.errBusy := rfl
@[simp] theorem State.finish_errOpc : (s.finish).errOpc = s.errOpc := rfl
@[simp] theorem State.finish_errFifo : (s.finish).errFifo = s.errFifo := rfl
@[simp] theorem State.finish_limit : (s.finish).limit = s.limit := rfl
@[simp] theorem State.finish_pollCount : (s.finish).pollCount = s.pollCount := rfl
@[simp] theorem State.finish_phase : (s.finish).phase = .idle := rfl
@[simp] theorem State.finish_lCmd : (s.finish).lCmd = s.lCmd := rfl
@[simp] theorem State.finish_lArg : (s.finish).lArg = s.lArg := rfl
@[simp] theorem State.finish_lLim : (s.finish).lLim = s.lLim := rfl
@[simp] theorem State.finish_w : (s.finish).w = s.w := rfl
@[simp] theorem State.finish_polls : (s.finish).polls = s.polls := rfl
@[simp] theorem State.finish_slot : (s.finish).slot = s.slot := rfl
@[simp] theorem State.finish_path : (s.finish).path = s.path := rfl
@[simp] theorem State.finish_rs : (s.finish).rs = s.rs := rfl
@[simp] theorem State.finish_hist : (s.finish).hist = s.hist ++ [.done s.lCmd] := rfl
@[simp] theorem State.finish_draws : (s.finish).draws = s.draws := rfl
@[simp] theorem State.finish_hostProg : (s.finish).hostProg = s.hostProg := rfl
@[simp] theorem State.finish_sched : (s.finish).sched = s.sched := rfl

/-! ### raiseTimeout -/

@[simp] theorem State.raiseTimeout_cfg (f : BitVec 8) (x : Word) : (s.raiseTimeout f x).cfg = s.cfg := rfl
@[simp] theorem State.raiseTimeout_hcmd (f : BitVec 8) (x : Word) : (s.raiseTimeout f x).hcmd = s.hcmd := rfl
@[simp] theorem State.raiseTimeout_harg (f : BitVec 8) (x : Word) : (s.raiseTimeout f x).harg = s.harg := rfl
@[simp] theorem State.raiseTimeout_timeout (f : BitVec 8) (x : Word) : (s.raiseTimeout f x).timeout = true := rfl
@[simp] theorem State.raiseTimeout_errBusy (f : BitVec 8) (x : Word) : (s.raiseTimeout f x).errBusy = s.errBusy := rfl
@[simp] theorem State.raiseTimeout_errOpc (f : BitVec 8) (x : Word) : (s.raiseTimeout f x).errOpc = s.errOpc := rfl
@[simp] theorem State.raiseTimeout_errFifo (f : BitVec 8) (x : Word) : (s.raiseTimeout f x).errFifo = s.errFifo := rfl
@[simp] theorem State.raiseTimeout_limit (f : BitVec 8) (x : Word) : (s.raiseTimeout f x).limit = s.limit := rfl
@[simp] theorem State.raiseTimeout_pollCount (f : BitVec 8) (x : Word) : (s.raiseTimeout f x).pollCount = s.pollCount := rfl
@[simp] theorem State.raiseTimeout_phase (f : BitVec 8) (x : Word) : (s.raiseTimeout f x).phase = s.phase := rfl
@[simp] theorem State.raiseTimeout_lCmd (f : BitVec 8) (x : Word) : (s.raiseTimeout f x).lCmd = s.lCmd := rfl
@[simp] theorem State.raiseTimeout_lArg (f : BitVec 8) (x : Word) : (s.raiseTimeout f x).lArg = s.lArg := rfl
@[simp] theorem State.raiseTimeout_lLim (f : BitVec 8) (x : Word) : (s.raiseTimeout f x).lLim = s.lLim := rfl
@[simp] theorem State.raiseTimeout_w (f : BitVec 8) (x : Word) : (s.raiseTimeout f x).w = s.w := rfl
@[simp] theorem State.raiseTimeout_polls (f : BitVec 8) (x : Word) : (s.raiseTimeout f x).polls = s.polls := rfl
@[simp] theorem State.raiseTimeout_slot (f : BitVec 8) (x : Word) : (s.raiseTimeout f x).slot = s.slot := rfl
@[simp] theorem State.raiseTimeout_path (f : BitVec 8) (x : Word) : (s.raiseTimeout f x).path = s.path := rfl
@[simp] theorem State.raiseTimeout_rs (f : BitVec 8) (x : Word) : (s.raiseTimeout f x).rs = s.rs := rfl
@[simp] theorem State.raiseTimeout_hist (f : BitVec 8) (x : Word) : (s.raiseTimeout f x).hist = s.hist ++ [.log f x] := rfl
@[simp] theorem State.raiseTimeout_draws (f : BitVec 8) (x : Word) : (s.raiseTimeout f x).draws = s.draws := rfl
@[simp] theorem State.raiseTimeout_hostProg (f : BitVec 8) (x : Word) : (s.raiseTimeout f x).hostProg = s.hostProg := rfl
@[simp] theorem State.raiseTimeout_sched (f : BitVec 8) (x : Word) : (s.raiseTimeout f x).sched = s.sched := rfl

/-! ### accept -/

@[simp] theorem State.accept_cfg (x : Word) : (s.accept x).cfg = s.cfg := rfl
@[simp] theorem State.accept_hcmd (x : Word) : (s.accept x).hcmd = x := rfl
@[simp] theorem State.accept_harg (x : Word) : (s.accept x).harg = s.harg := rfl
@[simp] theorem State.accept_timeout (x : Word) : (s.accept x).timeout = s.timeout := rfl
@[simp] theorem State.accept_errBusy (x : Word) : (s.accept x).errBusy = s.errBusy := rfl
@[simp] theorem State.accept_errOpc (x : Word) : (s.accept x).errOpc = s.errOpc := rfl
@[simp] theorem State.accept_errFifo (x : Word) : (s.accept x).errFifo = s.errFifo := rfl
@[simp] theorem State.accept_limit (x : Word) : (s.accept x).limit = s.limit := rfl
@[simp] theorem State.accept_pollCount (x : Word) : (s.accept x).pollCount = s.pollCount := rfl
@[simp] theorem State.accept_phase (x : Word) : (s.accept x).phase = s.phase := rfl
@[simp] theorem State.accept_lCmd (x : Word) : (s.accept x).lCmd = x := rfl
@[simp] theorem State.accept_lArg (x : Word) : (s.accept x).lArg = s.harg := rfl
@[simp] theorem State.accept_lLim (x : Word) : (s.accept x).lLim = s.limit := rfl
@[simp] theorem State.accept_w (x : Word) : (s.accept x).w = s.w := rfl
@[simp] theorem State.accept_polls (x : Word) : (s.accept x).polls = s.polls := rfl
@[simp] theorem State.accept_slot (x : Word) : (s.accept x).slot = s.slot := rfl
@[simp] theorem State.accept_path (x : Word) : (s.accept x).path = s.path := rfl
@[simp] theorem State.accept_rs (x : Word) : (s.accept x).rs = s.rs := rfl
@[simp] theorem State.accept_hist (x : Word) : (s.accept x).hist = s.hist ++ [.accept x s.harg s.limit] := rfl
@[simp] theorem State.accept_draws (x : Word) : (s.accept x).draws = s.draws := rfl
@[simp] theorem State.accept_hostProg (x : Word) : (s.accept x).hostProg = s.hostProg := rfl
@[simp] theorem State.accept_sched (x : Word) : (s.accept x).sched = s.sched := rfl

/-! ### reject -/

@[simp] theorem State.reject_cfg (k : RejectKind) (x : Word) : (s.reject k x).cfg = s.cfg := by cases k <;> simp [State.reject]
@[simp] theorem State.reject_hcmd (k : RejectKind) (x : Word) : (s.reject k x).hcmd = s.hcmd := by cases k <;> simp [State.reject]
@[simp] theorem State.reject_harg (k : RejectKind) (x : Word) : (s.reject k x).harg = s.harg := by cases k <;> simp [State.reject]
@[simp] theorem State.reject_timeout (k : RejectKind) (x : Word) : (s.reject k x).timeout = s.timeout := by cases k <;> simp [State.reject]
@[simp] theorem State.reject_errBusy (k : RejectKind) (x : Word) : (s.reject k x).errBusy = (s.errBusy || decide (k = .busy)) := by cases k <;> simp [State.reject]
@[simp] theorem State.reject_errOpc (k : RejectKind) (x : Word) : (s.reject k x).errOpc = (s.errOpc || decide (k = .opc)) := by cases k <;> simp [State.reject]
@[simp] theorem State.reject_errFifo (k : RejectKind) (x : Word) : (s.reject k x).errFifo = (s.errFifo || decide (k = .fifo)) := by cases k <;> simp [State.reject]
@[simp] theorem State.reject_limit (k : RejectKind) (x : Word) : (s.reject k x).limit = s.limit := by cases k <;> simp [State.reject]
@[simp] theorem State.reject_pollCount (k : RejectKind) (x : Word) : (s.reject k x).pollCount = s.pollCount := by cases k <;> simp [State.reject]
@[simp] theorem State.reject_phase (k : RejectKind) (x : Word) : (s.reject k x).phase = s.phase := by cases k <;> simp [State.reject]
@[simp] theorem State.reject_lCmd (k : RejectKind) (x : Word) : (s.reject k x).lCmd = s.lCmd := by cases k <;> simp [State.reject]
@[simp] theorem State.reject_lArg (k : RejectKind) (x : Word) : (s.reject k x).lArg = s.lArg := by cases k <;> simp [State.reject]
@[simp] theorem State.reject_lLim (k : RejectKind) (x : Word) : (s.reject k x).lLim = s.lLim := by cases k <;> simp [State.reject]
@[simp] theorem State.reject_w (k : RejectKind) (x : Word) : (s.reject k x).w = s.w := by cases k <;> simp [State.reject]
@[simp] theorem State.reject_polls (k : RejectKind) (x : Word) : (s.reject k x).polls = s.polls := by cases k <;> simp [State.reject]
@[simp] theorem State.reject_slot (k : RejectKind) (x : Word) : (s.reject k x).slot = s.slot := by cases k <;> simp [State.reject]
@[simp] theorem State.reject_path (k : RejectKind) (x : Word) : (s.reject k x).path = s.path := by cases k <;> simp [State.reject]
@[simp] theorem State.reject_rs (k : RejectKind) (x : Word) : (s.reject k x).rs = s.rs := by cases k <;> simp [State.reject]
@[simp] theorem State.reject_hist (k : RejectKind) (x : Word) : (s.reject k x).hist = s.hist ++ [.reject k x] := by cases k <;> simp [State.reject]
@[simp] theorem State.reject_draws (k : RejectKind) (x : Word) : (s.reject k x).draws = s.draws := by cases k <;> simp [State.reject]
@[simp] theorem State.reject_hostProg (k : RejectKind) (x : Word) : (s.reject k x).hostProg = s.hostProg := by cases k <;> simp [State.reject]
@[simp] theorem State.reject_sched (k : RejectKind) (x : Word) : (s.reject k x).sched = s.sched := by cases k <;> simp [State.reject]

/-! ### startClear -/

@[simp] theorem State.startClear_cfg (first : Word) : (s.startClear first).cfg = s.cfg := rfl
@[simp] theorem State.startClear_hcmd (first : Word) : (s.startClear first).hcmd = s.hcmd := rfl
@[simp] theorem State.startClear_harg (first : Word) : (s.startClear first).harg = s.harg := rfl
@[simp] theorem State.startClear_timeout (first : Word) : (s.startClear first).timeout = s.timeout := rfl
@[simp] theorem State.startClear_errBusy (first : Word) : (s.startClear first).errBusy = s.errBusy := rfl
@[simp] theorem State.startClear_errOpc (first : Word) : (s.startClear first).errOpc = s.errOpc := rfl
@[simp] theorem State.startClear_errFifo (first : Word) : (s.startClear first).errFifo = s.errFifo := rfl
@[simp] theorem State.startClear_limit (first : Word) : (s.startClear first).limit = s.limit := rfl
@[simp] theorem State.startClear_pollCount (first : Word) : (s.startClear first).pollCount = s.pollCount := rfl
@[simp] theorem State.startClear_phase (first : Word) : (s.startClear first).phase = .clr := rfl
@[simp] theorem State.startClear_lCmd (first : Word) : (s.startClear first).lCmd = s.lCmd := rfl
@[simp] theorem State.startClear_lArg (first : Word) : (s.startClear first).lArg = s.lArg := rfl
@[simp] theorem State.startClear_lLim (first : Word) : (s.startClear first).lLim = s.lLim := rfl
@[simp] theorem State.startClear_w (first : Word) : (s.startClear first).w = s.w := rfl
@[simp] theorem State.startClear_polls (first : Word) : (s.startClear first).polls = s.polls := rfl
@[simp] theorem State.startClear_slot (first : Word) : (s.startClear first).slot = first := rfl
@[simp] theorem State.startClear_path (first : Word) : (s.startClear first).path = s.path := rfl
@[simp] theorem State.startClear_rs (first : Word) : (s.startClear first).rs = s.rs := rfl
@[simp] theorem State.startClear_hist (first : Word) : (s.startClear first).hist = s.hist := rfl
@[simp] theorem State.startClear_draws (first : Word) : (s.startClear first).draws = s.draws := rfl
@[simp] theorem State.startClear_hostProg (first : Word) : (s.startClear first).hostProg = s.hostProg := rfl
@[simp] theorem State.startClear_sched (first : Word) : (s.startClear first).sched = s.sched := rfl

/-! ### clearSlot -/

@[simp] theorem State.clearSlot_cfg (f : BitVec 8) : (s.clearSlot f).cfg = s.cfg := by simp [State.clearSlot]
@[simp] theorem State.clearSlot_hcmd (f : BitVec 8) : (s.clearSlot f).hcmd = s.hcmd := by simp [State.clearSlot]
@[simp] theorem State.clearSlot_harg (f : BitVec 8) : (s.clearSlot f).harg = s.harg := by simp [State.clearSlot]
@[simp] theorem State.clearSlot_timeout (f : BitVec 8) : (s.clearSlot f).timeout = s.timeout := by simp [State.clearSlot]
@[simp] theorem State.clearSlot_errBusy (f : BitVec 8) : (s.clearSlot f).errBusy = s.errBusy := by simp [State.clearSlot]
@[simp] theorem State.clearSlot_errOpc (f : BitVec 8) : (s.clearSlot f).errOpc = s.errOpc := by simp [State.clearSlot]
@[simp] theorem State.clearSlot_errFifo (f : BitVec 8) : (s.clearSlot f).errFifo = s.errFifo := by simp [State.clearSlot]
@[simp] theorem State.clearSlot_limit (f : BitVec 8) : (s.clearSlot f).limit = s.limit := by simp [State.clearSlot]
@[simp] theorem State.clearSlot_pollCount (f : BitVec 8) : (s.clearSlot f).pollCount = s.pollCount := by simp [State.clearSlot]
@[simp] theorem State.clearSlot_phase (f : BitVec 8) : (s.clearSlot f).phase = s.phase := by simp [State.clearSlot]
@[simp] theorem State.clearSlot_lCmd (f : BitVec 8) : (s.clearSlot f).lCmd = s.lCmd := by simp [State.clearSlot]
@[simp] theorem State.clearSlot_lArg (f : BitVec 8) : (s.clearSlot f).lArg = s.lArg := by simp [State.clearSlot]
@[simp] theorem State.clearSlot_lLim (f : BitVec 8) : (s.clearSlot f).lLim = s.lLim := by simp [State.clearSlot]
@[simp] theorem State.clearSlot_w (f : BitVec 8) : (s.clearSlot f).w = s.w := by simp [State.clearSlot]
@[simp] theorem State.clearSlot_polls (f : BitVec 8) : (s.clearSlot f).polls = s.polls := by simp [State.clearSlot]
@[simp] theorem State.clearSlot_slot (f : BitVec 8) : (s.clearSlot f).slot = s.slot - 1 := by simp [State.clearSlot]
@[simp] theorem State.clearSlot_path (f : BitVec 8) : (s.clearSlot f).path = s.path := by simp [State.clearSlot]
@[simp] theorem State.clearSlot_rs (f : BitVec 8) : (s.clearSlot f).rs = (s.memWrite (s.cfg.workOff f.toNat s.slot) 0).rs := by simp [State.clearSlot]
@[simp] theorem State.clearSlot_hist (f : BitVec 8) : (s.clearSlot f).hist = s.hist ++ [.wr (s.cfg.workOff f.toNat s.slot) 0] := by simp [State.clearSlot]
@[simp] theorem State.clearSlot_draws (f : BitVec 8) : (s.clearSlot f).draws = (s.memWrite (s.cfg.workOff f.toNat s.slot) 0).draws := by simp [State.clearSlot]
@[simp] theorem State.clearSlot_hostProg (f : BitVec 8) : (s.clearSlot f).hostProg = s.hostProg := by simp [State.clearSlot]
@[simp] theorem State.clearSlot_sched (f : BitVec 8) : (s.clearSlot f).sched = s.sched := by simp [State.clearSlot]

/-! ### reportPolls -/

@[simp] theorem State.reportPolls_cfg : (s.reportPolls).cfg = s.cfg := rfl
@[simp] theorem State.reportPolls_hcmd : (s.reportPolls).hcmd = s.hcmd := rfl
@[simp] theorem State.reportPolls_harg : (s.reportPolls).harg = s.harg := rfl
@[simp] theorem State.reportPolls_timeout : (s.reportPolls).timeout = s.timeout := rfl
@[simp] theorem State.reportPolls_errBusy : (s.reportPolls).errBusy = s.errBusy := rfl
@[simp] theorem State.reportPolls_errOpc : (s.reportPolls).errOpc = s.errOpc := rfl
@[simp] theorem State.reportPolls_errFifo : (s.reportPolls).errFifo = s.errFifo := rfl
@[simp] theorem State.reportPolls_limit : (s.reportPolls).limit = s.limit := rfl
@[simp] theorem State.reportPolls_pollCount : (s.reportPolls).pollCount = s.polls := rfl
@[simp] theorem State.reportPolls_phase : (s.reportPolls).phase = s.phase := rfl
@[simp] theorem State.reportPolls_lCmd : (s.reportPolls).lCmd = s.lCmd := rfl
@[simp] theorem State.reportPolls_lArg : (s.reportPolls).lArg = s.lArg := rfl
@[simp] theorem State.reportPolls_lLim : (s.reportPolls).lLim = s.lLim := rfl
@[simp] theorem State.reportPolls_w : (s.reportPolls).w = s.w := rfl
@[simp] theorem State.reportPolls_polls : (s.reportPolls).polls = s.polls := rfl
@[simp] theorem State.reportPolls_slot : (s.reportPolls).slot = s.slot := rfl
@[simp] theorem State.reportPolls_path : (s.reportPolls).path = s.path := rfl
@[simp] theorem State.reportPolls_rs : (s.reportPolls).rs = s.rs := rfl
@[simp] theorem State.reportPolls_hist : (s.reportPolls).hist = s.hist := rfl
@[simp] theorem State.reportPolls_draws : (s.reportPolls).draws = s.draws := rfl
@[simp] theorem State.reportPolls_hostProg : (s.reportPolls).hostProg = s.hostProg := rfl
@[simp] theorem State.reportPolls_sched : (s.reportPolls).sched = s.sched := rfl

/-! ### pollRead -/

@[simp] theorem State.pollRead_cfg (f : BitVec 8) : (s.pollRead f).cfg = s.cfg := rfl
@[simp] theorem State.pollRead_hcmd (f : BitVec 8) : (s.pollRead f).hcmd = s.hcmd := rfl
@[simp] theorem State.pollRead_harg (f : BitVec 8) : (s.pollRead f).harg = s.harg := rfl
@[simp] theorem State.pollRead_timeout (f : BitVec 8) : (s.pollRead f).timeout = s.timeout := rfl
@[simp] theorem State.pollRead_errBusy (f : BitVec 8) : (s.pollRead f).errBusy = s.errBusy := rfl
@[simp] theorem State.pollRead_errOpc (f : BitVec 8) : (s.pollRead f).errOpc = s.errOpc := rfl
@[simp] theorem State.pollRead_errFifo (f : BitVec 8) : (s.pollRead f).errFifo = s.errFifo := rfl
@[simp] theorem State.pollRead_limit (f : BitVec 8) : (s.pollRead f).limit = s.limit := rfl
@[simp] theorem State.pollRead_pollCount (f : BitVec 8) : (s.pollRead f).pollCount = s.pollCount := rfl
@[simp] theorem State.pollRead_phase (f : BitVec 8) : (s.pollRead f).phase = s.phase := rfl
@[simp] theorem State.pollRead_lCmd (f : BitVec 8) : (s.pollRead f).lCmd = s.lCmd := rfl
@[simp] theorem State.pollRead_lArg (f : BitVec 8) : (s.pollRead f).lArg = s.lArg := rfl
@[simp] theorem State.pollRead_lLim (f : BitVec 8) : (s.pollRead f).lLim = s.lLim := rfl
@[simp] theorem State.pollRead_w (f : BitVec 8) : (s.pollRead f).w = s.fcr f.toNat := rfl
@[simp] theorem State.pollRead_polls (f : BitVec 8) : (s.pollRead f).polls = s.polls + 1 := rfl
@[simp] theorem State.pollRead_slot (f : BitVec 8) : (s.pollRead f).slot = s.slot := rfl
@[simp] theorem State.pollRead_path (f : BitVec 8) : (s.pollRead f).path = s.path := rfl
@[simp] theorem State.pollRead_rs (f : BitVec 8) : (s.pollRead f).rs = s.rs := rfl
@[simp] theorem State.pollRead_hist (f : BitVec 8) : (s.pollRead f).hist = s.hist ++ [.rd (s.cfg.ctrlOff f.toNat) (s.fcr f.toNat)] := rfl
@[simp] theorem State.pollRead_draws (f : BitVec 8) : (s.pollRead f).draws = s.draws := rfl
@[simp] theorem State.pollRead_hostProg (f : BitVec 8) : (s.pollRead f).hostProg = s.hostProg := rfl
@[simp] theorem State.pollRead_sched (f : BitVec 8) : (s.pollRead f).sched = s.sched := rfl

/-! ### clearFlags -/

@[simp] theorem State.clearFlags_cfg (x : Word) : (s.clearFlags x).cfg = s.cfg := rfl
@[simp] theorem State.clearFlags_hcmd (x : Word) : (s.clearFlags x).hcmd = s.hcmd := rfl
@[simp] theorem State.clearFlags_harg (x : Word) : (s.clearFlags x).harg = s.harg := rfl
@[simp] theorem State.clearFlags_timeout (x : Word) : (s.clearFlags x).timeout = (s.timeout && !x.getLsbD 1) := rfl
@[simp] theorem State.clearFlags_errBusy (x : Word) : (s.clearFlags x).errBusy = (s.errBusy && !x.getLsbD 2) := rfl
@[simp] theorem State.clearFlags_errOpc (x : Word) : (s.clearFlags x).errOpc = (s.errOpc && !x.getLsbD 3) := rfl
@[simp] theorem State.clearFlags_errFifo (x : Word) : (s.clearFlags x).errFifo = (s.errFifo && !x.getLsbD 4) := rfl
@[simp] theorem State.clearFlags_limit (x : Word) : (s.clearFlags x).limit = s.limit := rfl
@[simp] theorem State.clearFlags_pollCount (x : Word) : (s.clearFlags x).pollCount = s.pollCount := rfl
@[simp] theorem State.clearFlags_phase (x : Word) : (s.clearFlags x).phase = s.phase := rfl
@[simp] theorem State.clearFlags_lCmd (x : Word) : (s.clearFlags x).lCmd = s.lCmd := rfl
@[simp] theorem State.clearFlags_lArg (x : Word) : (s.clearFlags x).lArg = s.lArg := rfl
@[simp] theorem State.clearFlags_lLim (x : Word) : (s.clearFlags x).lLim = s.lLim := rfl
@[simp] theorem State.clearFlags_w (x : Word) : (s.clearFlags x).w = s.w := rfl
@[simp] theorem State.clearFlags_polls (x : Word) : (s.clearFlags x).polls = s.polls := rfl
@[simp] theorem State.clearFlags_slot (x : Word) : (s.clearFlags x).slot = s.slot := rfl
@[simp] theorem State.clearFlags_path (x : Word) : (s.clearFlags x).path = s.path := rfl
@[simp] theorem State.clearFlags_rs (x : Word) : (s.clearFlags x).rs = s.rs := rfl
@[simp] theorem State.clearFlags_hist (x : Word) : (s.clearFlags x).hist = s.hist := rfl
@[simp] theorem State.clearFlags_draws (x : Word) : (s.clearFlags x).draws = s.draws := rfl
@[simp] theorem State.clearFlags_hostProg (x : Word) : (s.clearFlags x).hostProg = s.hostProg := rfl
@[simp] theorem State.clearFlags_sched (x : Word) : (s.clearFlags x).sched = s.sched := rfl

/-! ### hifRead -/

@[simp] theorem State.hifRead_cfg (o : Word) : (s.hifRead o).cfg = s.cfg := rfl
@[simp] theorem State.hifRead_hcmd (o : Word) : (s.hifRead o).hcmd = s.hcmd := rfl
@[simp] theorem State.hifRead_harg (o : Word) : (s.hifRead o).harg = s.harg := rfl
@[simp] theorem State.hifRead_timeout (o : Word) : (s.hifRead o).timeout = s.timeout := rfl
@[simp] theorem State.hifRead_errBusy (o : Word) : (s.hifRead o).errBusy = s.errBusy := rfl
@[simp] theorem State.hifRead_errOpc (o : Word) : (s.hifRead o).errOpc = s.errOpc := rfl
@[simp] theorem State.hifRead_errFifo (o : Word) : (s.hifRead o).errFifo = s.errFifo := rfl
@[simp] theorem State.hifRead_limit (o : Word) : (s.hifRead o).limit = s.limit := rfl
@[simp] theorem State.hifRead_pollCount (o : Word) : (s.hifRead o).pollCount = s.pollCount := rfl
@[simp] theorem State.hifRead_phase (o : Word) : (s.hifRead o).phase = s.phase := rfl
@[simp] theorem State.hifRead_lCmd (o : Word) : (s.hifRead o).lCmd = s.lCmd := rfl
@[simp] theorem State.hifRead_lArg (o : Word) : (s.hifRead o).lArg = s.lArg := rfl
@[simp] theorem State.hifRead_lLim (o : Word) : (s.hifRead o).lLim = s.lLim := rfl
@[simp] theorem State.hifRead_w (o : Word) : (s.hifRead o).w = s.w := rfl
@[simp] theorem State.hifRead_polls (o : Word) : (s.hifRead o).polls = s.polls := rfl
@[simp] theorem State.hifRead_slot (o : Word) : (s.hifRead o).slot = s.slot := rfl
@[simp] theorem State.hifRead_path (o : Word) : (s.hifRead o).path = s.path := rfl
@[simp] theorem State.hifRead_rs (o : Word) : (s.hifRead o).rs = s.rs := rfl
@[simp] theorem State.hifRead_hist (o : Word) : (s.hifRead o).hist = s.hist ++ [.hifRd o (s.hifValue o)] := rfl
@[simp] theorem State.hifRead_draws (o : Word) : (s.hifRead o).draws = s.draws := rfl
@[simp] theorem State.hifRead_hostProg (o : Word) : (s.hifRead o).hostProg = s.hostProg := rfl
@[simp] theorem State.hifRead_sched (o : Word) : (s.hifRead o).sched = s.sched := rfl

/-! ### deviceSet -/

@[simp] theorem State.deviceSet_cfg (o v : Word) : (s.deviceSet o v).cfg = s.cfg := rfl
@[simp] theorem State.deviceSet_hcmd (o v : Word) : (s.deviceSet o v).hcmd = s.hcmd := rfl
@[simp] theorem State.deviceSet_harg (o v : Word) : (s.deviceSet o v).harg = s.harg := rfl
@[simp] theorem State.deviceSet_timeout (o v : Word) : (s.deviceSet o v).timeout = s.timeout := rfl
@[simp] theorem State.deviceSet_errBusy (o v : Word) : (s.deviceSet o v).errBusy = s.errBusy := rfl
@[simp] theorem State.deviceSet_errOpc (o v : Word) : (s.deviceSet o v).errOpc = s.errOpc := rfl
@[simp] theorem State.deviceSet_errFifo (o v : Word) : (s.deviceSet o v).errFifo = s.errFifo := rfl
@[simp] theorem State.deviceSet_limit (o v : Word) : (s.deviceSet o v).limit = s.limit := rfl
@[simp] theorem State.deviceSet_pollCount (o v : Word) : (s.deviceSet o v).pollCount = s.pollCount := rfl
@[simp] theorem State.deviceSet_phase (o v : Word) : (s.deviceSet o v).phase = s.phase := rfl
@[simp] theorem State.deviceSet_lCmd (o v : Word) : (s.deviceSet o v).lCmd = s.lCmd := rfl
@[simp] theorem State.deviceSet_lArg (o v : Word) : (s.deviceSet o v).lArg = s.lArg := rfl
@[simp] theorem State.deviceSet_lLim (o v : Word) : (s.deviceSet o v).lLim = s.lLim := rfl
@[simp] theorem State.deviceSet_w (o v : Word) : (s.deviceSet o v).w = s.w := rfl
@[simp] theorem State.deviceSet_polls (o v : Word) : (s.deviceSet o v).polls = s.polls := rfl
@[simp] theorem State.deviceSet_slot (o v : Word) : (s.deviceSet o v).slot = s.slot := rfl
@[simp] theorem State.deviceSet_path (o v : Word) : (s.deviceSet o v).path = s.path := rfl
@[simp] theorem State.deviceSet_rs (o v : Word) : (s.deviceSet o v).rs = s.rs.writeWord o v := rfl
@[simp] theorem State.deviceSet_hist (o v : Word) : (s.deviceSet o v).hist = s.hist ++ [.dev o (s.rsWord o) v] := rfl
@[simp] theorem State.deviceSet_draws (o v : Word) : (s.deviceSet o v).draws = s.draws := rfl
@[simp] theorem State.deviceSet_hostProg (o v : Word) : (s.deviceSet o v).hostProg = s.hostProg := rfl
@[simp] theorem State.deviceSet_sched (o v : Word) : (s.deviceSet o v).sched = s.sched := rfl

/-! ### popTurn -/

@[simp] theorem State.popTurn_cfg : (s.popTurn).cfg = s.cfg := rfl
@[simp] theorem State.popTurn_hcmd : (s.popTurn).hcmd = s.hcmd := rfl
@[simp] theorem State.popTurn_harg : (s.popTurn).harg = s.harg := rfl
@[simp] theorem State.popTurn_timeout : (s.popTurn).timeout = s.timeout := rfl
@[simp] theorem State.popTurn_errBusy : (s.popTurn).errBusy = s.errBusy := rfl
@[simp] theorem State.popTurn_errOpc : (s.popTurn).errOpc = s.errOpc := rfl
@[simp] theorem State.popTurn_errFifo : (s.popTurn).errFifo = s.errFifo := rfl
@[simp] theorem State.popTurn_limit : (s.popTurn).limit = s.limit := rfl
@[simp] theorem State.popTurn_pollCount : (s.popTurn).pollCount = s.pollCount := rfl
@[simp] theorem State.popTurn_phase : (s.popTurn).phase = s.phase := rfl
@[simp] theorem State.popTurn_lCmd : (s.popTurn).lCmd = s.lCmd := rfl
@[simp] theorem State.popTurn_lArg : (s.popTurn).lArg = s.lArg := rfl
@[simp] theorem State.popTurn_lLim : (s.popTurn).lLim = s.lLim := rfl
@[simp] theorem State.popTurn_w : (s.popTurn).w = s.w := rfl
@[simp] theorem State.popTurn_polls : (s.popTurn).polls = s.polls := rfl
@[simp] theorem State.popTurn_slot : (s.popTurn).slot = s.slot := rfl
@[simp] theorem State.popTurn_path : (s.popTurn).path = s.path := rfl
@[simp] theorem State.popTurn_rs : (s.popTurn).rs = s.rs := rfl
@[simp] theorem State.popTurn_hist : (s.popTurn).hist = s.hist := rfl
@[simp] theorem State.popTurn_draws : (s.popTurn).draws = s.draws := rfl
@[simp] theorem State.popTurn_hostProg : (s.popTurn).hostProg = s.hostProg := rfl
@[simp] theorem State.popTurn_sched : (s.popTurn).sched = s.sched.tail := rfl

/-! ### doReset -/

@[simp] theorem State.doReset_cfg : (s.doReset).cfg = (State.powerUp s.cfg s.rs).cfg := rfl
@[simp] theorem State.doReset_hcmd : (s.doReset).hcmd = (State.powerUp s.cfg s.rs).hcmd := rfl
@[simp] theorem State.doReset_harg : (s.doReset).harg = (State.powerUp s.cfg s.rs).harg := rfl
@[simp] theorem State.doReset_timeout : (s.doReset).timeout = (State.powerUp s.cfg s.rs).timeout := rfl
@[simp] theorem State.doReset_errBusy : (s.doReset).errBusy = (State.powerUp s.cfg s.rs).errBusy := rfl
@[simp] theorem State.doReset_errOpc : (s.doReset).errOpc = (State.powerUp s.cfg s.rs).errOpc := rfl
@[simp] theorem State.doReset_errFifo : (s.doReset).errFifo = (State.powerUp s.cfg s.rs).errFifo := rfl
@[simp] theorem State.doReset_limit : (s.doReset).limit = (State.powerUp s.cfg s.rs).limit := rfl
@[simp] theorem State.doReset_pollCount : (s.doReset).pollCount = (State.powerUp s.cfg s.rs).pollCount := rfl
@[simp] theorem State.doReset_phase : (s.doReset).phase = (State.powerUp s.cfg s.rs).phase := rfl
@[simp] theorem State.doReset_lCmd : (s.doReset).lCmd = (State.powerUp s.cfg s.rs).lCmd := rfl
@[simp] theorem State.doReset_lArg : (s.doReset).lArg = (State.powerUp s.cfg s.rs).lArg := rfl
@[simp] theorem State.doReset_lLim : (s.doReset).lLim = (State.powerUp s.cfg s.rs).lLim := rfl
@[simp] theorem State.doReset_w : (s.doReset).w = (State.powerUp s.cfg s.rs).w := rfl
@[simp] theorem State.doReset_polls : (s.doReset).polls = (State.powerUp s.cfg s.rs).polls := rfl
@[simp] theorem State.doReset_slot : (s.doReset).slot = (State.powerUp s.cfg s.rs).slot := rfl
@[simp] theorem State.doReset_path : (s.doReset).path = (State.powerUp s.cfg s.rs).path := rfl
@[simp] theorem State.doReset_rs : (s.doReset).rs = (State.powerUp s.cfg s.rs).rs := rfl
@[simp] theorem State.doReset_hist : (s.doReset).hist = (State.powerUp s.cfg s.rs).hist := rfl
@[simp] theorem State.doReset_draws : (s.doReset).draws = s.draws := rfl
@[simp] theorem State.doReset_hostProg : (s.doReset).hostProg = s.hostProg := rfl
@[simp] theorem State.doReset_sched : (s.doReset).sched = s.sched := rfl

end Sys2Proof.Machine
end

