-- ==== Sys2Proof/Laws/Ops.lean ====
section
/-! SUPPORT. One lemma per shared operation that says everything it can do, and the cases of `exec` and `step`. -/

namespace Sys2Proof.Machine

open Sys2Proof

/-- `busy` is `phase ≠ IDLE` (10_state R24). -/
theorem State.busy_iff (s : State) : s.busy = true ↔ s.phase ≠ .idle := by simp [State.busy]

theorem State.not_busy_iff (s : State) : s.busy = false ↔ s.phase = .idle := by simp [State.busy]

/-- A store writes one word: the value, or a fresh draw on a busy control register (20_memory R63). -/
theorem State.store_cases (s : State) (o v : Word) :
    (s.busyAt o = true ∧ (s.store o v).rs = s.rs.writeWord o (Config.draw32 s.draws) ∧ (s.store o v).draws = s.draws + 1)
      ∨ (s.busyAt o = false ∧ (s.store o v).rs = s.rs.writeWord o v ∧ (s.store o v).draws = s.draws) := by
  unfold State.store
  split
  · next h => exact .inl ⟨h, rfl, rfl⟩
  · next h => exact .inr ⟨by simpa using h, rfl, rfl⟩

/-- Where the register is not busy the value lands. -/
theorem State.store_free {s : State} {o v : Word} (h : s.busyAt o = false) :
    s.store o v = { s with rs := s.rs.writeWord o v } := by
  simp [State.store, h]

/-- Whatever a store leaves at its own word, it is one word written there. -/
theorem State.exists_store_rs (s : State) (o v : Word) : ∃ x, (s.store o v).rs = s.rs.writeWord o x := by
  rcases s.store_cases o v with ⟨-, h, -⟩ | ⟨-, h, -⟩ <;> exact ⟨_, h⟩

@[simp] theorem State.busyAt_emit (s : State) (e : Event) (o : Word) : (s.emit e).busyAt o = s.busyAt o := rfl

/-- A transaction's event and its store do not meet: RS is as after the store alone. -/
theorem State.memWrite_rs (s : State) (o v : Word) : (s.memWrite o v).rs = (s.store o v).rs := by
  by_cases h : s.busyAt o = true <;> simp [State.memWrite, State.store, h]

theorem State.memWrite_draws (s : State) (o v : Word) : (s.memWrite o v).draws = (s.store o v).draws := by
  by_cases h : s.busyAt o = true <;> simp [State.memWrite, State.store, h]

/-- Everything a write transaction changes: the history, RS and the draw counter (20_memory R63). -/
theorem State.memWrite_eq (s : State) (o v : Word) :
    s.memWrite o v
      = { s with hist := s.hist ++ [.wr o v], rs := (s.store o v).rs, draws := (s.store o v).draws } := by
  have e := State.busyAt_emit s (.wr o v) o
  by_cases h : s.busyAt o = true
  · rw [State.memWrite, State.store, if_pos (e.trans h), State.store, if_pos h]
    rfl
  · rw [State.memWrite, State.store, if_neg (by rw [e]; exact h), State.store, if_neg h]
    rfl

/-- Everything the transaction of a clear step changes (41_clear_init R121). -/
theorem State.clearSlot_eq (s : State) (f : BitVec 8) :
    s.clearSlot f
      = { s with
          slot := s.slot - 1
          hist := s.hist ++ [.wr (s.cfg.workOff f.toNat s.slot) 0]
          rs := (s.store (s.cfg.workOff f.toNat s.slot) 0).rs
          draws := (s.store (s.cfg.workOff f.toNat s.slot) 0).draws } := by
  rw [State.clearSlot, State.memWrite_eq]

/-- A store keeps RS in its canonical form. -/
theorem State.store_wf {s : State} (o v : Word) (h : s.rs.wf = true) : (s.store o v).rs.wf = true := by
  obtain ⟨x, hx⟩ := s.exists_store_rs o v
  exact hx ▸ Memory.writeWord_wf o x h

theorem State.memWrite_wf {s : State} (o v : Word) (h : s.rs.wf = true) : (s.memWrite o v).rs.wf = true := by
  rw [State.memWrite_rs]
  exact State.store_wf o v h

/-- A store leaves every byte outside its word alone. -/
theorem State.readByte_store (s : State) (o v : Word) {a : Nat} (h : a / 4 ≠ o.toNat / 4) :
    (s.store o v).rs.readByte a = s.rs.readByte a := by
  obtain ⟨x, hx⟩ := s.exists_store_rs o v
  rw [hx, Memory.readByte_writeWord, if_neg h]

/-- A store leaves every other word alone. -/
theorem State.readWord_store (s : State) (o v : Word) {p : Word} (h : o.toNat / 4 ≠ p.toNat / 4) :
    (s.store o v).rs.readWord p = s.rs.readWord p := by
  obtain ⟨x, hx⟩ := s.exists_store_rs o v
  rw [hx, Memory.readWord_writeWord_other _ _ _ _ h]

/-- A clear step does one of three things (41_clear_init R121). -/
theorem State.clearStep_cases (s : State) (k : Continuation) (f : BitVec 8) :
    (s.slot.toInt < 0 ∧ s.clearStep k f = s.continueAt k)
      ∨ (0 ≤ s.slot.toInt ∧ (s.slot - 1).toInt < 0 ∧ s.clearStep k f = (s.clearSlot f).continueAt k)
      ∨ (0 ≤ s.slot.toInt ∧ 0 ≤ (s.slot - 1).toInt ∧ s.clearStep k f = s.clearSlot f) := by
  unfold State.clearStep
  split_ifs with h1 h2
  · exact .inl ⟨h1, rfl⟩
  · exact .inr (.inl ⟨by omega, h2, rfl⟩)
  · exact .inr (.inr ⟨by omega, by omega, rfl⟩)

/-- Path selection does one of two things (43_set_control R154). -/
theorem State.selectPath_cases (s : State) (valid : BitVec 1) :
    ((pathOf valid s.w).clears = true
        ∧ s.selectPath valid = { s with slot := s.cfg.lastSlot, phase := .clr, path := pathOf valid s.w })
      ∨ ((pathOf valid s.w).clears = false ∧ s.selectPath valid = { s with path := pathOf valid s.w, phase := .commit }) := by
  unfold State.selectPath
  split_ifs with h
  · exact .inl ⟨h, rfl⟩
  · exact .inr ⟨by simpa using h, rfl⟩

/-- A POLL step reads once and then does one of three things (43_set_control R152). -/
theorem State.pollStep_cases (s : State) (f : BitVec 8) (valid : BitVec 1) :
    (s.cfg.readOnly (s.fcr f.toNat) = false ∧ s.pollStep f valid = ((s.pollRead f).reportPolls).selectPath valid)
      ∨ (s.cfg.readOnly (s.fcr f.toNat) = true ∧ s.lLim.toNat < (s.polls + 1).toNat
          ∧ s.pollStep f valid = (((s.pollRead f).raiseTimeout f (s.fcr f.toNat)).reportPolls).selectPath valid)
      ∨ (s.cfg.readOnly (s.fcr f.toNat) = true ∧ (s.polls + 1).toNat ≤ s.lLim.toNat
          ∧ s.pollStep f valid = (s.pollRead f).goto .poll) := by
  by_cases h1 : s.cfg.readOnly (s.fcr f.toNat) = true
  · by_cases h2 : s.lLim.toNat < (s.polls + 1).toNat
    · exact .inr (.inl ⟨h1, h2, (if_pos h1).trans (if_pos h2)⟩)
    · exact .inr (.inr ⟨h1, by omega, (if_pos h1).trans (if_neg h2)⟩)
  · exact .inl ⟨by simpa using h1, if_neg h1⟩

/-- The next step of CLEAR_WD, where it has one (41_clear_init R120, R121). -/
theorem execClear_next {f : BitVec 8} {r : BitVec 20} {s t : State} (h : execClear f r s = .next t) :
    (s.phase = .idle ∧ t = (s.accept (encode (.clear f r))).startClear (clearFirstSlot s.harg))
      ∨ (s.phase = .clr ∧ t = s.clearStep .done f) := by
  unfold execClear at h
  split at h <;> simp_all

/-- The next step of INIT_FIFO, where it has one (41_clear_init R124, R125). -/
theorem execInit_next {f : BitVec 8} {r : BitVec 20} {s t : State} (h : execInit f r s = .next t) :
    (s.phase = .idle ∧ t = (s.accept (encode (.init f r))).startClear s.cfg.lastSlot)
      ∨ (s.phase = .clr ∧ t = s.clearStep .initw f) ∨ (s.phase = .initw ∧ t = s.initwStep f) := by
  unfold execInit at h
  split at h <;> simp_all

/-- The next step of SET_VALIDITY, where it has one (42_set_validity R140). -/
theorem execSetvalid_next {f : BitVec 8} {en : BitVec 1} {r : BitVec 19} {s t : State} (h : execSetvalid f en r s = .next t) :
    (s.phase = .idle ∧ t = (s.accept (encode (.setvalid f en r))).goto .svrd)
      ∨ (s.phase = .svrd ∧ t = s.svrdStep f) ∨ (s.phase = .svwr ∧ t = s.svwrStep f en) := by
  unfold execSetvalid at h
  split at h <;> simp_all

/-- The next step of SET_CONTROL, where it has one (43_set_control R150). -/
theorem execSetctl_next {f : BitVec 8} {c : BitVec 1} {p : BitVec 2} {e v x : BitVec 1} {r : BitVec 14} {s t : State}
    (h : execSetctl f c p e v x r s = .next t) :
    (s.phase = .idle ∧ t = { (s.accept (encode (.setctl f c p e v x r))).goto .poll with polls := 0 })
      ∨ (s.phase = .poll ∧ t = s.pollStep f v) ∨ (s.phase = .clr ∧ t = s.clearStep .commit f)
      ∨ (s.phase = .commit ∧ t = s.commitStep f c p e x) ∨ (s.phase = .flush ∧ t = s.flushStep f) := by
  unfold execSetctl at h
  split at h <;> simp_all

/-- A command request is rejected or takes the command's first step (44_host_access R183). -/
theorem requestCommand_cases (s : State) (x : Word) :
    (∃ k, decodeRequest s.cfg.numFifos s.busy x = .error k ∧ requestCommand s x = .next (s.reject k x))
      ∨ ∃ i, decodeRequest s.cfg.numFifos s.busy x = .ok i ∧ requestCommand s x = exec i s := by
  unfold requestCommand
  split
  · next k h => exact .inl ⟨k, h, rfl⟩
  · next i h => exact .inr ⟨i, h, rfl⟩

/-- The Controller's turn (40_bus_primitives R112). -/
theorem controllerTurn_cases (s : State) :
    (s.busy = false ∧ controllerTurn s = .next s)
      ∨ (s.busy = true ∧ ∃ i, decode s.lCmd = .ok i ∧ controllerTurn s = exec i s)
      ∨ (s.busy = true ∧ ∃ k, decode s.lCmd = .error k ∧ controllerTurn s = .refused .runningWordIllegal) := by
  unfold controllerTurn
  split
  · next h =>
    split
    · next i hi => exact .inr (.inl ⟨h, i, hi, rfl⟩)
    · next k hk => exact .inr (.inr ⟨h, k, hk, rfl⟩)
  · next h => exact .inl ⟨by simpa using h, rfl⟩

/-- A step under a well-formed configuration is the next mover's turn; under an ill-formed one it is refused (00_scope R10). -/
theorem step_cases (s : State) :
    (s.cfg.wf = true ∧ step s = takeTurn s.nextTurn s.popTurn) ∨ (s.cfg.wf = false ∧ step s = .refused .illFormedConfig) := by
  unfold step
  split
  · next h => exact .inl ⟨h, rfl⟩
  · next h => exact .inr ⟨by simpa using h, rfl⟩

end Sys2Proof.Machine
end

