-- ==== Sys2Proof/Laws/PerInstr.lean ====
section
/-! SUPPORT. Statements made per instruction: every command word holds its opcode in bits 3:0 and its FIFO index in bits 11:4
(30_encoding R86). -/

namespace Sys2Proof.Laws.Head

open Sys2Proof

/-- The word of `i` holds its opcode and FIFO index where R86 puts them. -/
def Statement (i : Instr) : Prop := cmdOpc (encode i) = i.opc ∧ cmdFifo (encode i) = i.fifo

/-- The low 12 bits of a word whose other parts stand at bit 12 or above are its head. -/
theorem head_of_low (opc : BitVec 4) (fifo : BitVec 8) (w : Word) (h : ∀ k, k < 12 → w.getLsbD k = false) :
    cmdOpc (encodeHead opc fifo ||| w) = opc ∧ cmdFifo (encodeHead opc fifo ||| w) = fifo := by
  constructor
  · apply BitVec.eq_of_getLsbD_eq
    intro k hk
    simp [cmdOpc, encodeHead, h k (by omega), hk]
    omega
  · apply BitVec.eq_of_getLsbD_eq
    intro k hk
    simp [cmdFifo, encodeHead, h (4 + k) (by omega), hk]
    rw [decide_eq_true (by omega : 4 + k < 32), decide_eq_true (by omega : k < 32), Bool.true_and, Bool.true_and]

theorem clear (f : BitVec 8) (r : BitVec 20) : Statement (.clear f r) := by
  apply head_of_low
  intro k hk
  simp
  omega

theorem init (f : BitVec 8) (r : BitVec 20) : Statement (.init f r) := by
  apply head_of_low
  intro k hk
  simp
  omega

theorem setvalid (f : BitVec 8) (en : BitVec 1) (r : BitVec 19) : Statement (.setvalid f en r) := by
  simp only [Statement, encode, BitVec.or_assoc]
  apply head_of_low
  intro k hk
  simp
  omega

theorem setctl (f : BitVec 8) (c : BitVec 1) (p : BitVec 2) (e v x : BitVec 1) (r : BitVec 14) :
    Statement (.setctl f c p e v x r) := by
  simp only [Statement, encode, BitVec.or_assoc]
  apply head_of_low
  intro k hk
  simp
  omega

end Sys2Proof.Laws.Head
end

