-- ==== Sys2Proof/Laws/Run.lean ====
section
/-! SUPPORT. Laws of runs of several steps, and the step of a machine with nothing scheduled. -/

namespace Sys2Proof.Machine

open Sys2Proof

theorem run_zero (s : State) : run 0 s = .next s := rfl

/-- A run of k + 1 steps whose first step answers t goes on from t. -/
theorem run_succ {s t : State} (k : Nat) (h : step s = .next t) : run (k + 1) s = run k t := by simp [run, h]

/-- A run in two parts. -/
theorem run_add {s t : State} (a b : Nat) (h : run a s = .next t) : run (a + b) s = run b t := by
  induction a generalizing s with
  | zero =>
    cases h
    simp
  | succ n ih =>
    rw [Nat.add_right_comm]
    simp only [run] at h ⊢
    split at h
    · exact ih h
    · cases h
    · cases h

/-- With nothing scheduled and a command running, a step is the next step of that command. -/
theorem step_of_running {s : State} {i : Instr} (hc : s.cfg.wf = true) (hs : s.sched = []) (hp : s.phase ≠ .idle)
    (hd : decode s.lCmd = .ok i) : step s = exec i s := by
  have hb := (State.busy_iff s).2 hp
  have hpop : s.popTurn = s := by cases s; simp_all [State.popTurn]
  have hn : s.nextTurn = .controller := by simp [State.nextTurn, hs, State.defaultTurn, hb]
  rcases step_cases s with ⟨-, he⟩ | ⟨hc', -⟩
  · rw [he, hn, hpop]
    rcases controllerTurn_cases s with ⟨hb', -⟩ | ⟨-, j, hj, he⟩ | ⟨-, k, hk, -⟩
    · rw [hb] at hb'; cases hb'
    · cases hd.symm.trans hj; exact he
    · cases hd.symm.trans hk
  · rw [hc] at hc'; cases hc'

end Sys2Proof.Machine
end

