-- ==== Sys2Proof/Tests/Slice0.lean ====
section
/-! SUPPORT. Small tests against the vectors of 95_test_vectors and the worked examples of the rules (their source is named at each),
the refusals of the well-formedness checks, and for every statement with hypotheses a witness that meets them. -/

namespace Sys2Proof.Tests

open Sys2Proof Machine

/-- The reference configuration of a variant. -/
abbrev rc (v : Variant) : Config := Config.reference v

/-- The reset state of variant A, in a phase, with a word in L_CMD. -/
def st (p : Phase) (cmd : Word) : State := { State.powerUp (rc .a) [] with phase := p, lCmd := cmd }

/-- The same with one RS word listed. -/
def held (o w : Word) (p : Phase) (cmd : Word) : State := { st p cmd with rs := Memory.writeWord [] o w }

/-- The same with a schedule and a Host program. -/
def turn (t : Turn) (ops : List HostOp) (s : State) : State := { s with sched := [t], hostProg := ops }

theorem held_word (o w : Word) (p : Phase) (cmd : Word) : (held o w p cmd).rsWord o = w := Memory.readWord_writeWord_same _ _ _

theorem held_fcr2 (w : Word) (p : Phase) (cmd : Word) : (held 0x108 w p cmd).fcr 2 = w := held_word _ _ _ _

theorem held_fcr0 (w : Word) (p : Phase) (cmd : Word) : (held 0x100 w p cmd).fcr 0 = w := held_word _ _ _ _

theorem held_wf (o w : Word) (p : Phase) (cmd : Word) : (held o w p cmd).rs.wf = true := Memory.writeWord_wf _ _ Memory.wf_nil

/-! ### Well-formedness: an ill-formed term for each check -/

/-- The reference configurations are well-formed (92_eei_decisions D39). -/
theorem test_reference_wf : (rc .a).wf = true ∧ (rc .b).wf = true ∧ (rc .c).wf = true := by decide

/-- 30_encoding R93. -/
theorem test_fifo_refused : Instr.wf 4 (.init 4 0) = false ∧ Instr.wf 4 (.init 3 0) = true := by decide

/-- 00_scope R8: counts, RO_BIT, IN_USE_MASK, widths, positions, masks. -/
theorem test_config_fields_refused :
    Config.wf { rc .a with numFifos := 0 } = false ∧ Config.wf { rc .a with numFifos := 257 } = false
      ∧ Config.wf { rc .a with slotCount := 0 } = false ∧ Config.wf { rc .a with slotCount := 65537 } = false
      ∧ Config.wf { rc .a with roBit := 32 } = false ∧ Config.wf { rc .a with roBit := 4 } = false
      ∧ Config.wf { rc .a with inUseMask := 0 } = false ∧ Config.wf { rc .a with inUseMask := 0x50 } = false
      ∧ Config.wf { rc .a with inUseMask := 0x80000040 } = false := by decide

/-- 00_scope R8, continued. -/
theorem test_config_masks_refused :
    Config.wf { rc .a with efWidthA := 1 } = false ∧ Config.wf { rc .a with efWidthA := 22 } = false
      ∧ Config.wf { rc .a with efWidthB := 0 } = false ∧ Config.wf { rc .a with efPosB := 29 } = false
      ∧ Config.wf { rc .a with efWidthC := 0 } = false ∧ Config.wf { rc .a with efPosC := 31 } = false
      ∧ Config.wf { rc .a with residA := 0x2E } = false ∧ Config.wf { rc .a with residB := 0x2E } = false
      ∧ Config.wf { rc .a with residC := 0x2E } = false ∧ Config.wf { rc .a with fifoBitsB := 0x90 } = false
      ∧ Config.wf { rc .a with fifoBitsC := 0x90 } = false ∧ Config.wf { rc .a with hwOwnedMask := 0x7FFBC781 } = false := by decide

/-- 00_scope R8, R10: bases, shifts, regions. -/
theorem test_config_regions_refused :
    Config.wf { rc .a with ctrlBase := 0x102 } = false ∧ Config.wf { rc .a with ctrlShift := 1 } = false
      ∧ Config.wf { rc .a with ctrlShift := 25 } = false ∧ Config.wf { rc .a with workBase := 0x1002 } = false
      ∧ Config.wf { rc .a with workShift := 3 } = false ∧ Config.wf { rc .a with workShift := 25 } = false
      ∧ Config.wf { rc .a with ctrlBase := 0xFFFFFFF4 } = false ∧ Config.wf { rc .a with workBase := 0xFFFFFFD0 } = false
      ∧ Config.wf { rc .a with workBase := 0x10C } = false := by decide

/-- 30_encoding R97, R100: each operand range. -/
theorem test_operands_refused :
    AsmLine.wf (.clear 256 0) = false ∧ AsmLine.wf (.clear 0 (2 ^ 31)) = false ∧ AsmLine.wf (.clear 0 (-(2 ^ 31) - 1)) = false
      ∧ AsmLine.wf (.init 256 0) = false ∧ AsmLine.wf (.init 0 (2 ^ 32)) = false ∧ AsmLine.wf (.setvalid 256 0) = false
      ∧ AsmLine.wf (.setvalid 0 2) = false ∧ AsmLine.wf (.setctl 256 0 0 0 0 0) = false ∧ AsmLine.wf (.setctl 0 2 0 0 0 0) = false
      ∧ AsmLine.wf (.setctl 0 0 4 0 0 0) = false ∧ AsmLine.wf (.setctl 0 0 0 2 0 0) = false
      ∧ AsmLine.wf (.setctl 0 0 0 0 2 0) = false ∧ AsmLine.wf (.setctl 0 0 0 0 0 2) = false := by decide

/-- 30_encoding R100, and the model's own ranges of `hw` and `hr`. -/
theorem test_pseudo_operands_refused :
    AsmLine.wf (.clearall 256) = false ∧ AsmLine.wf (.arm 256 0 0 0 0) = false ∧ AsmLine.wf (.arm 0 2 0 0 0) = false
      ∧ AsmLine.wf (.arm 0 0 4 0 0) = false ∧ AsmLine.wf (.arm 0 0 0 2 0) = false ∧ AsmLine.wf (.arm 0 0 0 0 2) = false
      ∧ AsmLine.wf (.disarm 256) = false ∧ AsmLine.wf (.validate 256) = false ∧ AsmLine.wf (.invalidate 256) = false
      ∧ AsmLine.wf (.setlimit 65536) = false ∧ AsmLine.wf (.hw (2 ^ 32) 0) = false ∧ AsmLine.wf (.hw 0 (2 ^ 32)) = false
      ∧ AsmLine.wf (.hr (2 ^ 32)) = false := by decide

/-! ### Decoding: words written out from 30_encoding R86 to R90, field by field, most significant first -/

/-- Format N: bits 31:12 ignored, FIFO = 1, OPC = 1 (V1). -/
theorem test_decode_clear : decode (0b00000000000000000000#20 ++ 0b00000001#8 ++ 0b0001#4) = .ok (.clear 1 0) := by decide

/-- Format N: FIFO = 0xA5, OPC = 2, the ignored bits kept. -/
theorem test_decode_init : decode (0b10000000000000000001#20 ++ 0b10100101#8 ++ 0b0010#4) = .ok (.init 0xA5 0x80001) := by decide

/-- Format V: en = 1, FIFO = 0, OPC = 3 (V15), and the word of it. -/
theorem test_decode_setvalid :
    decode (0b0000000000000000000#19 ++ 0b1#1 ++ 0b00000000#8 ++ 0b0011#4) = .ok (.setvalid 0 1 0)
      ∧ encode (.setvalid 0 1 0) = 0x00001003 := by decide

/-- Format C: xf = 1, valid = 1, empty = 0, prio = 3, ctrl = 1, FIFO = 2, OPC = 4 (E7), and the word of it. -/
theorem test_decode_setctl :
    decode (0b00000000000000#14 ++ 0b1#1 ++ 0b1#1 ++ 0b0#1 ++ 0b11#2 ++ 0b1#1 ++ 0b00000010#8 ++ 0b0100#4) = .ok (.setctl 2 1 3 0 1 1 0)
      ∧ encode (.setctl 2 1 3 0 1 1 0) = 0x00037024 := by decide

/-- R91: opcodes 0 and 5 to 15 are reserved. -/
theorem test_reserved_opcodes :
    ∀ n : Fin 16, (n.val = 0 ∨ 5 ≤ n.val) → decode (BitVec.ofNat 32 (0x12340 + n.val)) = .error .opc := by decide

/-- R96, 60_exceptions R206: BUSY before OPC before FIFO. -/
theorem test_decode_order :
    decodeRequest 4 true 0x00000FF0 = .error .busy ∧ decodeRequest 4 false 0x00000FF0 = .error .opc
      ∧ decodeRequest 4 false 0x00000041 = .error .fifo ∧ decodeRequest 4 false 0x00000031 = .ok (.clear 3 0) := by decide

/-! ### Control words: the vectors of 95_test_vectors -/

/-- V8 to V14. -/
theorem test_init_words :
    (rc .a).initWord 0xFF = 0x00003840 ∧ (rc .a).initWord 2 = 0x00001040 ∧ (rc .a).initWord 0x10 = 0x00000040
      ∧ (rc .b).initWord 0xFF = 0x0000F040 ∧ (rc .b).initWord 0x25 = 0x00005040
      ∧ (rc .c).initWord 0xFF = 0x0000C040 ∧ (rc .c).initWord 1 = 0x00004040 := by decide

/-- V15 to V20b. -/
theorem test_setvalid_words :
    (rc .a).svWord 0 1 = 0x00000050 ∧ (rc .a).svWord 0x10 1 = 0x00000050 ∧ (rc .a).svWord 0x7FFFFFFF 1 = 0x7FFFFFFF
      ∧ (rc .a).svWord 0x105E 1 = 0x105E ∧ (rc .a).svWord 0x105E 0 = 0x104E ∧ (rc .a).svWord 0x7FFFFFFF 0 = 0x7FFFFFEF
      ∧ (rc .a).svWord 0x4004105E 0 = 0x4004104E := by decide

/-- The word SET_CONTROL commits for a sampled word and a command word. -/
def committed (v : Variant) (w cmd : Word) : Option Word :=
  match decode cmd with
  | .ok (.setctl _ c p e vd x _) => some ((rc v).commitWord (pathOf vd w) w c p e x)
  | _ => none

/-- V22 to V27: EN_NEW. -/
theorem test_enabled_words :
    committed .a 0 0x00037024 = some 0x0004105E ∧ committed .b 0 0x00037024 = some 0x1800205E
      ∧ committed .c 0 0x00037024 = some 0x0300805E ∧ committed .a 0 0x00018024 = some 0x00001070
      ∧ committed .b 0x40000000 0x0001A024 = some 0x00002074 ∧ committed .c 0 0x00031024 = some 0x03008052 := by decide

/-- V28 (EN_KEEP), V29 to V34 (DIS_NEW), V35, V36 (DIS_KEEP). -/
theorem test_kept_and_disabled_words :
    committed .a 0x4004105E 0x00018024 = some 0x4004105E ∧ committed .a 0x0004105E 0x00000024 = some 0x00001040
      ∧ committed .b 0x1800205E 0x00000024 = some 0x000020C0 ∧ committed .c 0x0300805E 0x00000024 = some 0x000080C0
      ∧ committed .a 0x4004107E 0x0002B024 = some 0x40001040 ∧ committed .b 0x1FFFFFFF 0x00000024 = some 0x07FFFFC1
      ∧ committed .c 0x7FFFFFFF 0x00000024 = some 0x7CFFFFC1 ∧ committed .a 0x00003840 0x0002B024 = some 0x00003840
      ∧ committed .a 0x7FFFFFEF 0x00000024 = some 0x7FFFFFEF := by decide

/-- 40_bus_primitives R117. -/
theorem test_offsets :
    (rc .a).ctrlOff 2 = 0x108 ∧ (rc .a).workOff 2 0 = 0x1020 ∧ (rc .a).workOff 2 3 = 0x102C ∧ (rc .a).workOff 2 4 = 0x1030
      ∧ (rc .a).workOff 3 0 = 0x1030 := by decide

/-- The configuration's own HW_OWNED_MASK is the default of 10_state R43. -/
theorem test_hw_owned_default :
    (rc .a).hwOwnedMask = (rc .a).hwOwnedDefault ∧ (rc .b).hwOwnedMask = (rc .b).hwOwnedDefault
      ∧ (rc .c).hwOwnedMask = (rc .c).hwOwnedDefault := by decide

/-! ### One step -/

/-- The part of an outcome a test looks at. -/
def seen {α : Type} (o : Host.Outcome State Fault Refusal) (f : State → α) : Option α :=
  match o with
  | .next t => some (f t)
  | _ => none

/-- V1 to V3, V5: the slot a clear starts at (41_clear_init R120). -/
theorem test_clear_first_slot :
    clearFirstSlot 0xFFFFFFFB = 0xFFFFFFFF ∧ clearFirstSlot 0 = 0xFFFFFFFF ∧ clearFirstSlot 0x80000000 = 0xFFFFFFFF
      ∧ clearFirstSlot 4 = 3 ∧ clearFirstSlot 0x7FFFFFFF = 0x7FFFFFFE := by decide

/-- The history after the last step of a clear. -/
theorem hist_clear (s : State) (f : BitVec 8) (h : s.slot = 0) :
    (s.clearStep .done f).hist = s.hist ++ [.wr (s.cfg.workOff f.toNat 0) 0] ++ [.done s.lCmd] := by
  simp [State.clearStep, h, State.continueAt, State.finish, State.clearSlot]

/-- The history after INITW. -/
theorem hist_initw (s : State) (f : BitVec 8) :
    (s.initwStep f).hist = s.hist ++ [.wr (s.cfg.ctrlOff f.toNat) (s.cfg.initWord s.lArg)] ++ [.done s.lCmd] := by
  simp [State.initwStep, State.finish]

/-- The history after SVWR. -/
theorem hist_svwr (s : State) (f : BitVec 8) (en : BitVec 1) :
    (s.svwrStep f en).hist = s.hist ++ [.wr (s.cfg.ctrlOff f.toNat) (s.cfg.svWord s.w en)] ++ [.done s.lCmd] := by
  simp [State.svwrStep, State.finish]

/-- The history after COMMIT. -/
theorem hist_commit (s : State) (f : BitVec 8) (c : BitVec 1) (p : BitVec 2) (e x : BitVec 1) :
    (s.commitStep f c p e x).hist = s.hist ++ [.wr (s.cfg.ctrlOff f.toNat) (s.cfg.commitWord s.path s.w c p e x)] := by
  simp [State.commitStep, State.goto]

/-- What a timed-out POLL step leaves. -/
theorem poll_times_out (s : State) (f : BitVec 8) (v : BitVec 1) (h : s.cfg.readOnly (s.fcr f.toNat) = true)
    (hl : s.lLim.toNat < (s.polls + 1).toNat) :
    (s.pollStep f v).timeout = true ∧ (s.pollStep f v).pollCount = s.polls + 1 := by
  rcases s.pollStep_cases f v with ⟨h', -⟩ | ⟨-, -, he⟩ | ⟨-, h', -⟩
  · rw [h] at h'; cases h'
  · rw [he]
    unfold State.selectPath
    split <;> exact ⟨rfl, rfl⟩
  · omega

/-- V4: a clear of one slot writes slot 0 of FIFO 1 and is done. -/
theorem test_clear_step : seen (exec (.clear 1 0) (st .clr 0x11)) (fun t => t.hist) = some [.wr 0x1010 0, .done 0x11] :=
  congrArg some ((hist_clear _ _ rfl).trans (by decide))

/-- 44_host_access R186: with HARG = -1 the CLR step has no transaction. -/
theorem test_clear_of_none :
    seen (exec (.clear 2 0) { st .clr 0x21 with slot := 0xFFFFFFFF }) (fun t => (t.hist, t.phase))
      = some ([.done 0x21], .idle) := by decide

/-- V8: the INITW step writes the initial control word of HARG = 0xFF at 0x104. -/
theorem test_initw_step :
    seen (exec (.init 1 0) { st .initw 0x12 with lArg := 0xFF }) (fun t => t.hist) = some [.wr 0x104 0x3840, .done 0x12] :=
  congrArg some ((hist_initw _ _).trans (by decide))

/-- V8: INIT_FIFO starts its clear at the last slot. -/
theorem test_init_accept :
    seen (exec (.init 1 0) (st .idle 0)) (fun t => (t.slot, t.phase, t.hist)) = some (3, .clr, [.accept 0x12 0 0x0BB8]) := by decide

/-- V19: the SVRD step samples the word. -/
theorem test_svrd_step :
    seen (exec (.setvalid 0 0 0) (held 0x100 0x105E .svrd 0x3)) (fun t => t.w) = some 0x105E :=
  congrArg some (held_fcr0 0x105E .svrd 0x3)

/-- V19: the SVWR step writes bit 4 = 0 and keeps the rest. -/
theorem test_svwr_step :
    seen (exec (.setvalid 0 0 0) { st .svwr 0x3 with w := 0x105E }) (fun t => t.hist) = some [.wr 0x100 0x104E, .done 0x3] :=
  congrArg some ((hist_svwr _ _ _).trans (by decide))

/-- E7: the COMMIT step of EN_NEW writes 0x0004105E at 0x108. -/
theorem test_commit_step :
    seen (exec (.setctl 2 1 3 0 1 1 0) (st .commit 0x37024)) (fun t => t.hist) = some [.wr 0x108 0x0004105E] :=
  congrArg some ((hist_commit _ _ _ _ _ _).trans (by decide))

/-- A busy control register of FIFO 2. -/
def busy2 (p : Phase) (lim : BitVec 16) : State := { held 0x108 0x80000000 p 0x37024 with lLim := lim }

theorem busy2_fcr (p : Phase) (lim : BitVec 16) : (busy2 p lim).fcr 2 = 0x80000000 := held_fcr2 0x80000000 p 0x37024

theorem busy2_ro (p : Phase) (lim : BitVec 16) : (busy2 p lim).cfg.readOnly ((busy2 p lim).fcr 2) = true := by
  rw [busy2_fcr]
  change (0x80000000 : Word).getLsbD 31 = true
  decide

/-- V38: with a limit of 0 a busy first read times out: TIMEOUT is 1 and HPOLL_COUNT is 1. -/
theorem test_poll_timeout :
    ∃ t, exec (.setctl 2 1 3 0 1 1 0) (busy2 .poll 0) = .next t ∧ t.timeout = true ∧ t.pollCount = 1 :=
  ⟨_, rfl, (poll_times_out _ 2 1 (busy2_ro .poll 0) (by decide))⟩

/-! ### The Host -/

/-- A rejection sets its bit and nothing else (60_exceptions R203): each kind, BUSY with a word that is reserved besides (as in V49). -/
theorem test_rejections :
    seen (requestCommand (st .clr 0x11) 0xFF0) (fun t => (t.errBusy, t.errOpc, t.errFifo, t.hist)) = some (true, false, false, [.reject .busy 0xFF0])
      ∧ seen (requestCommand (st .idle 0) 0xFF0) (fun t => (t.errBusy, t.errOpc, t.errFifo, t.phase)) = some (false, true, false, .idle)
      ∧ seen (requestCommand (st .idle 0) 0x41) (fun t => (t.errBusy, t.errOpc, t.errFifo, t.hcmd)) = some (false, false, true, 0) := by
  decide

/-- 44_host_access R185: writes of HSTATUS, and of HPOLL_LIMIT with 0x00010005. -/
theorem test_host_writes :
    seen (hostStep { st .idle 0 with timeout := true, errFifo := true } (.hifWrite 4 0x08 0x1E)) (fun t => t.hstatus) = some 0
      ∧ seen (hostStep { st .idle 0 with timeout := true, errFifo := true } (.hifWrite 4 0x08 0x01)) (fun t => t.hstatus) = some 0x12
      ∧ seen (hostStep (st .idle 0) (.hifWrite 4 0x10 0x00010005)) (fun t => t.limit) = some 5 := by decide

/-- The refusal a test looks for. -/
def refusal (o : Host.Outcome State Fault Refusal) : Option Refusal :=
  match o with
  | .refused r => some r
  | _ => none

/-- 44_host_access R180, 20_memory R72: what the Host has no step for. -/
theorem test_host_refused :
    refusal (hostStep (st .idle 0) (.hifRead 2 0x00)) = some .hifAccess ∧ refusal (hostStep (st .idle 0) (.hifRead 4 0x02)) = some .hifAccess
      ∧ refusal (hostStep (st .idle 0) (.hifRead 4 0x20)) = some .hifAccess
      ∧ refusal (hostStep (st .idle 0) (.rsRead 0x102)) = some .rsMisaligned
      ∧ refusal (hostStep (st .clr 0x21) (.rsRead 0x102C)) = some .rsOfRunningFifo
      ∧ refusal (hostStep (st .clr 0x21) (.rsWrite 0x108 0)) = some .rsOfRunningFifo := by decide

/-! ### Whole-machine steps -/

/-- A command word of each row placed at reset is the next step's, and is accepted. -/
theorem test_fetch_words :
    seen (step (State.reset.withFetchWord 32 0x011)) (fun t => (t.phase, t.lCmd)) = some (.clr, 0x011)
      ∧ seen (step (State.reset.withFetchWord 32 0x012)) (fun t => (t.phase, t.lCmd)) = some (.clr, 0x012)
      ∧ seen (step (State.reset.withFetchWord 32 0x013)) (fun t => (t.phase, t.lCmd)) = some (.svrd, 0x013)
      ∧ seen (step (State.reset.withFetchWord 32 0x014)) (fun t => (t.phase, t.lCmd)) = some (.poll, 0x014) := by decide

/-- With nothing placed, the block stays idle (10_state R48; log entry 7). -/
theorem test_reset_idles : step State.reset = .next State.reset := rfl

/-- 70_reset_and_hazards R231: a reset while a command runs. -/
theorem test_reset_step :
    seen (step (turn .reset [] { st .clr 0x11 with timeout := true, hist := [.done 0] })) (fun t => (t.phase, t.timeout, t.lCmd, t.hist))
      = some (.idle, false, 0, []) := by decide

/-- 20_memory R70: a Device step on FCR[0] keeps the software-owned bits. -/
theorem test_device_word : Config.deviceWord (rc .a) 0x8004105E 0x7FFFFFFF = 0x7FFFD7DF := by decide

/-- 20_memory R70: what the Device has no step for. -/
theorem test_device_refused :
    refusal (deviceStep (.working 3 4 0) State.reset) = some .deviceStep ∧ refusal (deviceStep (.platform 0x10C 0) State.reset) = some .deviceStep
      ∧ refusal (deviceStep (.platform 0x103C 0) State.reset) = some .deviceStep
      ∧ refusal (deviceStep (.platform 0x112 0) State.reset) = some .deviceStep := by decide

/-! ### The assembler -/

/-- 30_encoding R97 to R100: text to Host operations (the word of R163). -/
theorem test_assemble_text :
    assembleText 4 ["; start".toList, "setctl 2, 1, 3, 0, 1, 1 ; E7".toList, "clear 1, -5".toList, "clearall 0x3".toList]
      = some [.hifWrite 4 0x00 0x00037024, .waitIdle, .hifWrite 4 0x04 0xFFFFFFFB, .hifWrite 4 0x00 0x00000011, .waitIdle,
          .hifWrite 4 0x04 4, .hifWrite 4 0x00 0x00000031, .waitIdle] := by decide

/-- An operand out of range is refused, and so is a sign outside `clear` or on its FIFO (the latter log entry 13). -/
theorem test_assemble_refused :
    assembleText 4 ["setctl 2, 1, 4, 0, 1, 1".toList] = none ∧ parseLine "init 0, -1".toList = none
      ∧ parseLine "clear -0, 1".toList = none ∧ parseLine "clear 0, -0".toList = some (.clear 0 0)
      ∧ parseLine "frob 1".toList = none := by decide

/-! ### Witnesses: for each statement with hypotheses, states and operands that meet all of them together, clause by clause -/

/-- DecodeEncodeRoundTrip, second half. -/
theorem witness_DecodeEncodeRoundTrip : decode 0xFFFFFFF4 = .ok (.setctl 0xFF 1 3 1 1 1 0x3FFF) := by decide

/-- DecodeRequestAnswersByOrder: opcodes 0, 1, 4, 5, 15, FIFO indexes 3 and 4 of 4. -/
theorem witness_DecodeRequestAnswersByOrder :
    (0x040 : Word).extractLsb' 0 4 = 0 ∧ 5 ≤ ((0x045 : Word).extractLsb' 0 4).toNat ∧ 5 ≤ ((0x04F : Word).extractLsb' 0 4).toNat
      ∧ (1 ≤ ((0x041 : Word).extractLsb' 0 4).toNat ∧ ((0x044 : Word).extractLsb' 0 4).toNat ≤ 4)
      ∧ (4 ≤ ((0x041 : Word).extractLsb' 4 8).toNat ∧ 4 ≤ ((0x044 : Word).extractLsb' 4 8).toNat)
      ∧ (∀ o : Fin 4, ((BitVec.ofNat 32 (0x031 + o.val)).extractLsb' 4 8).toNat < 4
          ∧ (BitVec.ofNat 32 (0x031 + o.val)).extractLsb' 0 4 = BitVec.ofNat 4 (1 + o.val)) := by decide

/-- EncoderFormulas, AssemblerChecksAndKeepsOperands: operands at the ends of their ranges. -/
theorem witness_EncoderFormulas :
    (AsmLine.clear 255 (-(2 ^ 31))).wf = true ∧ (AsmLine.clear 255 (2 ^ 31 - 1)).wf = true ∧ (AsmLine.init 255 (2 ^ 32 - 1)).wf = true
      ∧ (AsmLine.setvalid 255 1).wf = true ∧ (AsmLine.setctl 255 1 3 1 1 1).wf = true := by decide

/-- AssemblerChecksAndKeepsOperands: the operands outside the word read back, at the ends of their ranges. -/
theorem witness_AssemblerChecksAndKeepsOperands :
    clearCount (BitVec.ofInt 32 (-(2 ^ 31))) = -(2 ^ 31) ∧ clearCount (BitVec.ofInt 32 (2 ^ 31 - 1)) = 2 ^ 31 - 1
      ∧ (rc .b).wf = true ∧ ((rc .b).efv (BitVec.ofNat 32 (2 ^ 32 - 1))).toNat = 15 := by decide

/-- CommandHostSequences: each line at the upper ends of its ranges. -/
theorem witness_CommandHostSequences :
    (255 : Nat) ≤ 255 ∧ (AsmLine.hw (2 ^ 32 - 1) (2 ^ 32 - 1)).wf = true ∧ (AsmLine.hr (2 ^ 32 - 1)).wf = true
      ∧ (AsmLine.clear 255 (2 ^ 31 - 1)).wf = true ∧ (AsmLine.init 255 (2 ^ 32 - 1)).wf = true ∧ (AsmLine.setvalid 255 1).wf = true
      ∧ (AsmLine.setctl 255 1 3 1 1 1).wf = true := by decide

/-- ControlOffsetIsLinear, WorkOffsetIsLinear, OffsetsAreAligned, RegionsAreDisjoint: the last FIFO and slot of a well-formed block. -/
theorem witness_Offsets :
    (rc .b).wf = true ∧ 3 < (rc .b).numFifos ∧ 3 < (rc .b).slotCount ∧ (3 : Word).toNat < (rc .b).slotCount
      ∧ (rc .b).ctrlOff 3 ≠ (rc .b).workOff 0 0 := by decide

/-- InitWordBits, SetValidityWordBits, ExtraFlagBits, EnabledWord, DisabledWord: each variant; an enable field of width 1; a bit outside
the three masks of DISWORD. -/
theorem witness_ControlWords :
    ((rc .a).wf = true ∧ (rc .a).variant = .a) ∧ ((rc .b).wf = true ∧ (rc .b).variant = .b) ∧ ((rc .c).wf = true ∧ (rc .c).variant = .c)
      ∧ (Config.wf { rc .c with efWidthC := 1, hwOwnedMask := 0xFCFFBF81 } = true
          ∧ Config.efWidth { rc .c with efWidthC := 1, hwOwnedMask := 0xFCFFBF81 } = 1)
      ∧ ((rc .b).xfMask.getLsbD 0 = false ∧ (rc .b).resid.getLsbD 0 = false ∧ (rc .b).fifoBits.getLsbD 0 = false)
      ∧ ((rc .b).inUseMask.getLsbD 6 = true ∧ (rc .b).inUseMask.getLsbD 4 = false) := by decide

/-- BusWrite: a busy control register, one that is not, a word that is no control register, a byte of another word. -/
theorem witness_BusWrite :
    (2 < (busy2 .commit 0).cfg.numFifos ∧ (0x108 : Word) = (busy2 .commit 0).cfg.ctrlOff 2
        ∧ ((busy2 .commit 0).rsWord 0x108).getLsbD (busy2 .commit 0).cfg.roBit = true)
      ∧ ((held 0x108 0 .commit 0).rsWord 0x108).getLsbD (held 0x108 0 .commit 0).cfg.roBit = false
      ∧ (∀ f, f < (busy2 .commit 0).cfg.numFifos → (0x1000 : Word) ≠ (busy2 .commit 0).cfg.ctrlOff f)
      ∧ 0x104 / 4 ≠ (0x108 : Word).toNat / 4 := by
  refine ⟨⟨by decide, by decide, busy2_ro .commit 0⟩, ?_, by decide, by decide⟩
  rw [held_word]
  decide

/-- CommandRequest: busy and idle, reserved opcodes, a FIFO out of range, each opcode on the last FIFO. -/
theorem witness_CommandRequest :
    (st .clr 0x11).phase ≠ .idle ∧ (st .idle 0).phase = .idle ∧ (st .idle 0).cfg.numFifos ≤ ((0x044 : Word).extractLsb' 4 8).toNat
      ∧ (∀ o : Fin 4, ((BitVec.ofNat 32 (0x031 + o.val)).extractLsb' 4 8).toNat < (st .idle 0).cfg.numFifos) := by decide

/-- AcceptClearInitSetvalid, AcceptSetctl: the reset state is idle and has a FIFO 3. -/
theorem witness_Accept : State.reset.phase = .idle ∧ (3 : BitVec 8).toNat < State.reset.cfg.numFifos := by decide

/-- ClearStep: slots -1, 0 and 1 in phase CLR. -/
theorem witness_ClearStep :
    (st .clr 0x11).phase = .clr ∧ ({ st .clr 0x11 with slot := 0xFFFFFFFF } : State).slot.toInt < 0 ∧ (st .clr 0x11).slot.toInt = 0
      ∧ 0 < ({ st .clr 0x11 with slot := 1 } : State).slot.toInt := by decide

/-- InitwStep: phase INITW, and a next step of INIT_FIFO. -/
theorem witness_InitwStep : (st .initw 0x12).phase = .initw ∧ ∃ t, exec (.init 1 0) (st .initw 0x12) = .next t := ⟨rfl, _, rfl⟩

/-- SetValiditySteps, CommitStep, FlushStep: their phases, and each path. -/
theorem witness_PhaseSteps :
    (st .svrd 0x3).phase = .svrd ∧ (st .svwr 0x3).phase = .svwr ∧ (st .flush 0x4).phase = .flush
      ∧ ∀ p : Path, ({ st .commit 0x4 with path := p } : State).phase = .commit ∧ ({ st .commit 0x4 with path := p } : State).path = p :=
  ⟨rfl, rfl, rfl, fun _ => ⟨rfl, rfl⟩⟩

/-- PollStep: a register that is not busy; busy at the ceiling (limit 0, first read); busy below it (limit 1, first read). -/
theorem witness_PollStep :
    ((held 0x108 0x10 .poll 0x37024).rsWord 0x108).getLsbD (rc .a).roBit = false
      ∧ (((busy2 .poll 0).rsWord 0x108).getLsbD (rc .a).roBit = true ∧ (busy2 .poll 0).lLim.toNat < ((busy2 .poll 0).polls + 1).toNat)
      ∧ (((busy2 .poll 1).rsWord 0x108).getLsbD (rc .a).roBit = true ∧ ((busy2 .poll 1).polls + 1).toNat ≤ (busy2 .poll 1).lLim.toNat) := by
  refine ⟨?_, ⟨busy2_ro .poll 0, by decide⟩, busy2_ro .poll 1, by decide⟩
  rw [held_word]
  decide

/-- CommandRegisterFrame, CommandMemoryFrame: a next step in each phase. -/
theorem witness_Frames :
    (∃ t, exec (.clear 1 0) (st .idle 0) = .next t) ∧ (∃ t, exec (.clear 1 0) (st .clr 0x11) = .next t ∧ 0 ≤ (st .clr 0x11).slot.toInt)
      ∧ (∃ t, exec (.clear 1 0) { st .clr 0x11 with slot := 0xFFFFFFFF } = .next t ∧ (0xFFFFFFFF : Word).toInt < 0)
      ∧ (∃ t, exec (.init 1 0) (st .initw 0x12) = .next t) ∧ (∃ t, exec (.setvalid 1 1 0) (st .svrd 0x1013) = .next t)
      ∧ (∃ t, exec (.setvalid 1 1 0) (st .svwr 0x1013) = .next t) ∧ (∃ t, exec (.setctl 1 0 0 0 0 0 0) (st .poll 0x14) = .next t)
      ∧ (∃ t, exec (.setctl 1 0 0 0 0 0 0) (st .commit 0x14) = .next t) ∧ (∃ t, exec (.setctl 1 0 0 0 0 0 0) (st .flush 0x14) = .next t) :=
  ⟨⟨_, rfl⟩, ⟨_, rfl, by decide⟩, ⟨_, rfl, by decide⟩, ⟨_, rfl⟩, ⟨_, rfl⟩, ⟨_, rfl⟩, ⟨_, rfl⟩, ⟨_, rfl⟩, ⟨_, rfl⟩⟩

/-- ClearWdRun: no slot, and slots 3 to 0 of FIFO 1. -/
theorem witness_ClearWdRun :
    (st .clr 0x11).cfg.wf = true ∧ (st .clr 0x11).sched = [] ∧ decode (st .clr 0x11).lCmd = .ok (.clear 1 0)
      ∧ ({ st .clr 0x11 with slot := 0xFFFFFFFF } : State).slot.toInt < 0
      ∧ ({ st .clr 0x11 with slot := 3 } : State).slot = BitVec.ofNat 32 3 ∧ (1 : BitVec 8).toNat < (st .clr 0x11).cfg.numFifos := by decide

/-- InitFifoRun, its last clause on a register that is not busy. -/
theorem witness_InitFifoRun :
    ({ held 0x104 0x5EADBEEF .clr 0x12 with slot := 3 } : State).cfg.wf = true
      ∧ ({ held 0x104 0x5EADBEEF .clr 0x12 with slot := 3 } : State).sched = []
      ∧ decode ({ held 0x104 0x5EADBEEF .clr 0x12 with slot := 3 } : State).lCmd = .ok (.init 1 0)
      ∧ ({ held 0x104 0x5EADBEEF .clr 0x12 with slot := 3 } : State).slot = BitVec.ofNat 32 (rc .a).slotCount - 1
      ∧ (rc .a).readOnly ((held 0x104 0x5EADBEEF .clr 0x12).rsWord 0x104) = false := by
  refine ⟨by decide, rfl, by decide, by decide, ?_⟩
  rw [held_word]
  decide

/-- SetValidityRun: V19. -/
theorem witness_SetValidityRun :
    (held 0x100 0x105E .svrd 0x3).cfg.wf = true ∧ (held 0x100 0x105E .svrd 0x3).sched = [] ∧ (held 0x100 0x105E .svrd 0x3).phase = .svrd
      ∧ decode (held 0x100 0x105E .svrd 0x3).lCmd = .ok (.setvalid 0 0 0)
      ∧ (rc .a).readOnly ((held 0x100 0x105E .svrd 0x3).fcr 0) = false := by
  refine ⟨by decide, rfl, rfl, by decide, ?_⟩
  rw [held_fcr0]
  decide

/-- SetControlRun: V22 (a path that clears) and V28 (one that does not), each at the first read and, as in V40, at the last read a ceiling
of 5 allows. -/
theorem witness_SetControlRun :
    ∀ w : Word, w = 0x00000000 ∨ w = 0x4004105E → ∀ n : Nat, n = 0 ∨ n = 5 →
      let s : State := { held 0x108 w .poll 0x37024 with polls := BitVec.ofNat 17 n, lLim := 5 }
      s.cfg.wf = true ∧ s.sched = [] ∧ s.phase = .poll ∧ s.polls.toNat ≤ s.lLim.toNat
        ∧ decode s.lCmd = .ok (.setctl 2 1 3 0 1 1 0) ∧ (2 : BitVec 8).toNat < s.cfg.numFifos
        ∧ s.cfg.readOnly (s.fcr (2 : BitVec 8).toNat) = false := by
  intro w hw n hn s
  refine ⟨by change (rc .a).wf = true; decide, rfl, rfl, ?_, by change decode 0x37024 = _; decide, by change 2 < (rc .a).numFifos; decide, ?_⟩
  · change (BitVec.ofNat 17 n).toNat ≤ (5 : BitVec 16).toNat
    rcases hn with rfl | rfl <;> decide
  · have h : s.fcr (2 : BitVec 8).toNat = w := held_fcr2 w .poll 0x37024
    rw [h]
    change w.getLsbD 31 = false
    rcases hw with rfl | rfl <;> decide

/-- PollTimeoutRun: V37's register. -/
theorem witness_PollTimeoutRun :
    (busy2 .poll 3000).cfg.wf = true ∧ (busy2 .poll 3000).sched = [] ∧ (busy2 .poll 3000).phase = .poll ∧ (busy2 .poll 3000).polls = 0
      ∧ decode (busy2 .poll 3000).lCmd = .ok (.setctl 2 1 3 0 1 1 0)
      ∧ (busy2 .poll 3000).cfg.readOnly ((busy2 .poll 3000).fcr 2) = true :=
  ⟨by decide, rfl, rfl, rfl, by decide, busy2_ro _ _⟩

/-- AcceptedCommandIsBounded. -/
theorem witness_AcceptedCommandIsBounded :
    State.reset.cfg.wf = true ∧ State.reset.phase = .idle ∧ ∃ t, exec (.setctl 1 0 0 0 0 0 0) State.reset = .next t :=
  ⟨by decide, rfl, _, rfl⟩

/-- A running INIT_FIFO meets the invariant. -/
theorem running_init : (st .initw 0x12).Running (.init 1 0) where
  word := by decide
  fifo := by decide
  phase := by decide
  slot := fun h => by cases h
  polls := fun h => by cases h
  phase1 := trivial

theorem init_inv : (st .initw 0x12).Inv := ⟨rfl, by decide, .inr ⟨_, running_init⟩⟩

/-- ControllerNeverBlocks, CommandCompletes, OneTransactionPerStep, StepRunsRunningCommand. -/
theorem witness_RunningCommand :
    (st .initw 0x12).Inv ∧ (st .initw 0x12).cfg.wf = true ∧ (st .initw 0x12).phase ≠ .idle ∧ (st .initw 0x12).sched = []
      ∧ (st .initw 0x12).nextTurn = .controller ∧ decode (st .initw 0x12).lCmd = .ok (.init 1 0)
      ∧ ∃ t, step (st .initw 0x12) = .next t :=
  ⟨init_inv, by decide, by decide, rfl, by decide, by decide, (st .initw 0x12).initwStep 1,
    (step_of_running (s := st .initw 0x12) (i := .init 1 0) (by decide) rfl (by decide) (by decide)).trans rfl⟩

/-- CommandStaysInItsFifo: FIFO 1 initialised, the control word of FIFO 0 looked at. -/
theorem witness_CommandStaysInItsFifo :
    ((st .initw 0x12).Inv ∧ (st .initw 0x12).cfg.wf = true ∧ (st .initw 0x12).phase ≠ .idle ∧ (st .initw 0x12).sched = []
        ∧ (st .initw 0x12).nextTurn = .controller ∧ decode (st .initw 0x12).lCmd = .ok (.init 1 0)
        ∧ ∃ t, step (st .initw 0x12) = .next t)
      ∧ (∀ f r, Instr.init 1 0 ≠ .clear f r) ∧ (0x100 : Word).toNat % 4 = 0 ∧ (0x100 : Word) ≠ (st .initw 0x12).cfg.ctrlOff 1
      ∧ ∀ k, k < (st .initw 0x12).cfg.slotCount → (0x100 : Word) ≠ (st .initw 0x12).cfg.workOff 1 (BitVec.ofNat 32 k) := by
  exact ⟨witness_RunningCommand, fun f r h => (by cases h), (by decide), (by decide), (by decide)⟩

/-- OthersLeaveTheCommandAlone: the Host's turn and the Device's while a command runs. -/
theorem witness_OthersLeaveTheCommandAlone :
    (st .clr 0x11).phase ≠ .idle
      ∧ ((turn .host [.hifWrite 4 0 0x12] (st .clr 0x11)).nextTurn = .host
          ∧ ∃ t, step (turn .host [.hifWrite 4 0 0x12] (st .clr 0x11)) = .next t)
      ∧ ((turn (.device (.platform 0 0)) [] (st .clr 0x11)).nextTurn = .device (.platform 0 0)
          ∧ ∃ t, step (turn (.device (.platform 0 0)) [] (st .clr 0x11)) = .next t) :=
  ⟨by decide, ⟨⟨rfl, ⟨_, rfl⟩⟩, ⟨rfl, ⟨_, rfl⟩⟩⟩⟩

/-- HifAdmission: accesses at the two ends of the range have a step, one past it has none. -/
theorem witness_HifAdmission :
    (∃ t, hostStep (st .idle 0) (.hifWrite 4 0x00 0x11) = .next t) ∧ (∃ t, hostStep (st .idle 0) (.hifRead 4 0x1C) = .next t)
      ∧ refusal (hostStep (st .idle 0) (.hifWrite 4 0x20 0)) = some .hifAccess := ⟨⟨_, rfl⟩, ⟨_, rfl⟩, by decide⟩

/-- WaitIdleRepeats: busy and idle. -/
theorem witness_WaitIdleRepeats :
    ((turn .host [.waitIdle] (st .clr 0x11)).hostProg = [.waitIdle] ∧ (turn .host [.waitIdle] (st .clr 0x11)).phase ≠ .idle)
      ∧ (turn .host [.waitIdle] (st .idle 0)).hostProg = [.waitIdle] ∧ (turn .host [.waitIdle] (st .idle 0)).phase = .idle := by decide

/-- HostRsAccess: the running FIFO's control word and last slot; another FIFO's; no command; a misaligned offset. -/
theorem witness_HostRsAccess :
    (0x102 : Word).toNat % 4 ≠ 0 ∧ (st .clr 0x21).phase ≠ .idle ∧ (0x108 : Word).toNat % 4 = 0 ∧ ((st .clr 0x21).lCmd.extractLsb' 4 8).toNat = 2
      ∧ (0x108 : Word) = (st .clr 0x21).cfg.ctrlOff 2 ∧ (0x102C : Word) = (st .clr 0x21).cfg.workOff 2 (BitVec.ofNat 32 3)
      ∧ ((0x1030 : Word) ≠ (st .clr 0x21).cfg.ctrlOff 2
          ∧ ∀ k, k < (st .clr 0x21).cfg.slotCount → (0x1030 : Word) ≠ (st .clr 0x21).cfg.workOff 2 (BitVec.ofNat 32 k))
      ∧ (st .idle 0x21).phase = .idle := by decide

/-- DeviceSteps: the last FIFO and slot, a platform word, a FIFO and a slot that do not exist, a misaligned offset, a control word, a
working word. -/
theorem witness_DeviceSteps :
    3 < State.reset.cfg.numFifos ∧ 3 < State.reset.cfg.slotCount ∧ (0x10FC : Word).toNat % 4 = 0
      ∧ (∀ g, g < State.reset.cfg.numFifos → (0x10FC : Word) ≠ State.reset.cfg.ctrlOff g)
      ∧ (∀ g, g < State.reset.cfg.numFifos → ∀ j, j < State.reset.cfg.slotCount → (0x10FC : Word) ≠ State.reset.cfg.workOff g (BitVec.ofNat 32 j))
      ∧ State.reset.cfg.numFifos ≤ 4 ∧ State.reset.cfg.slotCount ≤ 4 ∧ (0x102 : Word).toNat % 4 ≠ 0
      ∧ (0x10C : Word) = State.reset.cfg.ctrlOff 3 ∧ (0x103C : Word) = State.reset.cfg.workOff 3 (BitVec.ofNat 32 3) := by decide

/-- DeviceKeepsSoftwareBits: each kind of Device step. -/
theorem witness_DeviceKeepsSoftwareBits :
    State.reset.cfg.wf = true ∧ (∃ t, deviceStep (.control 3 0x80000000) State.reset = .next t)
      ∧ (∃ t, deviceStep (.working 3 3 1) State.reset = .next t) ∧ ∃ t, deviceStep (.platform 0x10FC 1) State.reset = .next t :=
  ⟨by decide, ⟨_, rfl⟩, ⟨_, rfl⟩, _, rfl⟩

/-- ResetAbandonsAndKeepsRs: a reset while a command runs. -/
theorem witness_ResetAbandonsAndKeepsRs :
    (turn .reset [] (st .clr 0x11)).cfg.wf = true ∧ (turn .reset [] (st .clr 0x11)).nextTurn = .reset := by decide

/-- StepRunsRequestedCommand, FetchWordRunsNext. -/
theorem witness_StepRunsRequestedCommand :
    (turn .host [.hifWrite 4 0x00 0x37024] (st .idle 0)).cfg.wf = true
      ∧ (turn .host [.hifWrite 4 0x00 0x37024] (st .idle 0)).nextTurn = .host
      ∧ (turn .host [.hifWrite 4 0x00 0x37024] (st .idle 0)).hostProg = [.hifWrite 4 0x00 0x37024]
      ∧ (turn .host [.hifWrite 4 0x00 0x37024] (st .idle 0)).phase = .idle ∧ decode 0x37024 = .ok (.setctl 2 1 3 0 1 1 0)
      ∧ Instr.wf (st .idle 0).cfg.numFifos (.setctl 2 1 3 0 1 1 0) = true
      ∧ decodeTableWord 32 0x37024 = some (.setctl 2 1 3 0 1 1 0) := by decide

/-- IllFormedConfigIsRefused. -/
theorem witness_IllFormedConfigIsRefused : ({ st .idle 0 with cfg := { rc .a with numFifos := 0 } } : State).cfg.wf = false := by decide

/-- InvariantAtReset, StepKeepsInvariant, ConfigurationNeverChanges, HistoryOnlyGrows. -/
theorem witness_StepKeepsInvariant :
    Memory.wf [] = true ∧ State.reset.Inv ∧ step State.reset = .next State.reset ∧ State.reset.nextTurn ≠ .reset :=
  ⟨rfl, ⟨rfl, by decide, .inl rfl⟩, rfl, by decide⟩

/-- The Controller's step on a busy register. -/
theorem busy2_step : step (busy2 .poll 0) = .next ((busy2 .poll 0).pollStep 2 1) :=
  (step_of_running (s := busy2 .poll 0) (i := .setctl 2 1 3 0 1 1 0) (by decide) rfl (by decide) (by decide)).trans rfl

/-- TimeoutIsSticky: a step that sets it, a step that clears it, a reset. -/
theorem witness_TimeoutIsSticky :
    ((busy2 .poll 0).nextTurn = .controller ∧ (busy2 .poll 0).phase = .poll
        ∧ decode (busy2 .poll 0).lCmd = .ok (.setctl 2 1 3 0 1 1 0) ∧ (busy2 .poll 0).cfg.readOnly ((busy2 .poll 0).fcr 2) = true
        ∧ (busy2 .poll 0).lLim.toNat < ((busy2 .poll 0).polls + 1).toNat
        ∧ ∃ t, step (busy2 .poll 0) = .next t ∧ (busy2 .poll 0).timeout = false ∧ t.timeout = true)
      ∧ (∃ t, step (turn .host [.hifWrite 4 0x08 0x02] { st .idle 0 with timeout := true }) = .next t ∧ t.timeout = false)
      ∧ ∃ t, step (turn .reset [] { st .idle 0 with timeout := true }) = .next t ∧ t.timeout = false := by
  refine ⟨⟨by decide, rfl, by decide, busy2_ro .poll 0, by decide, (busy2 .poll 0).pollStep 2 1, busy2_step, rfl,
    (poll_times_out _ 2 1 (busy2_ro .poll 0) (by decide)).1⟩, ⟨_, rfl, rfl⟩, _, rfl, rfl⟩

/-- ErrorBitsBySource: each bit set, each bit cleared. -/
theorem witness_ErrorBitsBySource :
    (∃ t, step (turn .host [.hifWrite 4 0x00 0x12] (st .clr 0x11)) = .next t ∧ t.errBusy = true)
      ∧ (∃ t, step (turn .host [.hifWrite 4 0x00 0x10] (st .idle 0)) = .next t ∧ t.errOpc = true)
      ∧ (∃ t, step (turn .host [.hifWrite 4 0x00 0x41] (st .idle 0)) = .next t ∧ t.errFifo = true)
      ∧ ∃ t, step (turn .host [.hifWrite 4 0x08 0x1C] { st .idle 0 with errBusy := true, errOpc := true, errFifo := true }) = .next t
          ∧ t.errBusy = false ∧ t.errOpc = false ∧ t.errFifo = false :=
  ⟨⟨_, rfl, rfl⟩, ⟨_, rfl, rfl⟩, ⟨_, rfl, rfl⟩, _, rfl, rfl, rfl, rfl⟩

/-- ReportedRegistersBySource: HPOLL_COUNT changed by Phase 1, the latches by an acceptance. -/
theorem witness_ReportedRegistersBySource :
    (∃ t, step (busy2 .poll 0) = .next t ∧ t.pollCount ≠ (busy2 .poll 0).pollCount)
      ∧ ∃ t, step (turn .host [.hifWrite 4 0x00 0x37024] (st .idle 0)) = .next t ∧ t.lCmd ≠ (st .idle 0).lCmd := by
  refine ⟨⟨(busy2 .poll 0).pollStep 2 1, busy2_step, ?_⟩, _, rfl, by decide⟩
  rw [(poll_times_out _ 2 1 (busy2_ro .poll 0) (by decide)).2]
  decide

end Sys2Proof.Tests
end

section
/-! PROOFS. The address map of 20_memory R69: the offsets of 40_bus_primitives R110 and R111 as numbers, exact inside the regions of a
well-formed configuration (00_scope R10), and the statements of 00_scope that follow. -/

namespace Sys2Proof

/-- `f << n` on words, as a number (00_scope R12). -/
theorem toNat_ofNat_shiftLeft (f n : Nat) : (BitVec.ofNat 32 f <<< n).toNat = f * 2 ^ n % 2 ^ 32 := by
  rw [BitVec.toNat_shiftLeft, BitVec.toNat_ofNat, Nat.shiftLeft_eq, Nat.mod_mul_mod]

/-- The f-th of n strides, with an offset less than a stride, ends before all n strides do. -/
theorem mul_add_lt_mul_of_lt {f n p x : Nat} (hf : f < n) (hx : x < p) : f * p + x < n * p :=
  calc f * p + x < (f + 1) * p := by rw [Nat.succ_mul]; omega
    _ ≤ n * p := Nat.mul_le_mul_right p hf

/-! ### The offsets as numbers -/

theorem Config.ctrlOff_toNat (c : Config) (f : Nat) :
    (c.ctrlOff f).toNat = (c.ctrlBase.toNat + f * 2 ^ c.ctrlShift) % 2 ^ 32 := by
  rw [Config.ctrlOff, BitVec.toNat_add, toNat_ofNat_shiftLeft, Nat.add_mod_mod]

theorem Config.workOff_toNat (c : Config) (f : Nat) (s : Word) :
    (c.workOff f s).toNat = (c.workBase.toNat + f * 2 ^ c.workShift + 4 * s.toNat) % 2 ^ 32 := by
  rw [Config.workOff, BitVec.toNat_add, BitVec.toNat_add, toNat_ofNat_shiftLeft, BitVec.toNat_mul, Nat.add_mod_mod, Nat.add_mod_mod,
    Nat.mod_add_mod]
  rfl

/-- A FIFO's control register lies inside the control region, before its end. -/
theorem Config.ctrl_lt_end {c : Config} {f : Nat} (hf : f < c.numFifos) :
    c.ctrlBase.toNat + f * 2 ^ c.ctrlShift < c.ctrlBase.toNat + c.numFifos * 2 ^ c.ctrlShift :=
  Nat.add_lt_add_left (mul_add_lt_mul_of_lt (x := 0) hf (Nat.two_pow_pos _)) _

/-- A FIFO's slot lies inside the working region, before its end. -/
theorem Config.work_lt_end {c : Config} (h : c.wf = true) {f k : Nat} (hf : f < c.numFifos) (hk : k < c.slotCount) :
    c.workBase.toNat + f * 2 ^ c.workShift + 4 * k < c.workBase.toNat + c.numFifos * 2 ^ c.workShift := by
  obtain ⟨-, ⟨-, hstride, -⟩, -⟩ := Config.regions_of_wf h
  have := mul_add_lt_mul_of_lt (p := 2 ^ c.workShift) (x := 4 * k) hf (by omega)
  omega

/-- R110 without the modulus: a FIFO of a well-formed block. -/
theorem Config.ctrlOff_toNat_of_wf {c : Config} (h : c.wf = true) {f : Nat} (hf : f < c.numFifos) :
    (c.ctrlOff f).toNat = c.ctrlBase.toNat + f * 2 ^ c.ctrlShift := by
  obtain ⟨-, -, ⟨hend, -⟩, -⟩ := Config.regions_of_wf h
  rw [Config.ctrlOff_toNat, Nat.mod_eq_of_lt ((Config.ctrl_lt_end hf).trans_le hend)]

/-- R111 without the modulus: a slot of a well-formed block. -/
theorem Config.workOff_toNat_of_wf {c : Config} (h : c.wf = true) {f : Nat} (hf : f < c.numFifos) {s : Word}
    (hs : s.toNat < c.slotCount) : (c.workOff f s).toNat = c.workBase.toNat + f * 2 ^ c.workShift + 4 * s.toNat := by
  obtain ⟨-, -, ⟨-, hend⟩, -⟩ := Config.regions_of_wf h
  rw [Config.workOff_toNat, Nat.mod_eq_of_lt ((Config.work_lt_end h hf hs).trans_le hend)]

/-- A slot index of a well-formed block is a 32-bit value. -/
theorem Config.toNat_slot {c : Config} (h : c.wf = true) {k : Nat} (hk : k < c.slotCount) : (BitVec.ofNat 32 k).toNat = k := by
  obtain ⟨-, ⟨-, hcount⟩, -⟩ := Config.fields_of_wf h
  rw [BitVec.toNat_ofNat, Nat.mod_eq_of_lt (by omega)]

/-- R111 without the modulus, the slot given as a number. -/
theorem Config.workOff_slot_toNat {c : Config} (h : c.wf = true) {f k : Nat} (hf : f < c.numFifos) (hk : k < c.slotCount) :
    (c.workOff f (BitVec.ofNat 32 k)).toNat = c.workBase.toNat + f * 2 ^ c.workShift + 4 * k := by
  have hkw := Config.toNat_slot h hk
  rw [Config.workOff_toNat_of_wf h hf (hkw.symm ▸ hk), hkw]

/-! ### Different words -/

/-- No control register is a working word: the two regions do not overlap. -/
theorem Config.ctrlOff_ne_workOff {c : Config} (h : c.wf = true) {f g k : Nat} (hf : f < c.numFifos) (hg : g < c.numFifos)
    (hk : k < c.slotCount) : c.ctrlOff f ≠ c.workOff g (BitVec.ofNat 32 k) := by
  intro heq
  have hnat := congrArg BitVec.toNat heq
  rw [Config.ctrlOff_toNat_of_wf h hf, Config.workOff_slot_toNat h hg hk] at hnat
  have hctrl := Config.ctrl_lt_end hf
  have hwork := Config.work_lt_end h hg hk
  obtain ⟨-, -, -, hbefore | hafter⟩ := Config.regions_of_wf h <;> omega

/-- Each FIFO has a control register of its own. -/
theorem Config.ctrlOff_inj {c : Config} (h : c.wf = true) {f g : Nat} (hf : f < c.numFifos) (hg : g < c.numFifos)
    (heq : c.ctrlOff f = c.ctrlOff g) : f = g := by
  have hnat := congrArg BitVec.toNat heq
  rw [Config.ctrlOff_toNat_of_wf h hf, Config.ctrlOff_toNat_of_wf h hg] at hnat
  exact Nat.eq_of_mul_eq_mul_right (Nat.two_pow_pos _) (Nat.add_left_cancel hnat)

/-- Each slot of each FIFO has a working word of its own: the FIFO is the quotient by the stride, the slot is in the remainder. -/
theorem Config.workOff_inj {c : Config} (h : c.wf = true) {f g k j : Nat} (hf : f < c.numFifos) (hg : g < c.numFifos)
    (hk : k < c.slotCount) (hj : j < c.slotCount)
    (heq : c.workOff f (BitVec.ofNat 32 k) = c.workOff g (BitVec.ofNat 32 j)) : f = g ∧ k = j := by
  have hnat := congrArg BitVec.toNat heq
  rw [Config.workOff_slot_toNat h hf hk, Config.workOff_slot_toNat h hg hj] at hnat
  obtain ⟨-, ⟨-, hstride, -⟩, -⟩ := Config.regions_of_wf h
  have hquot : ∀ {e i : Nat}, i < c.slotCount → (e * 2 ^ c.workShift + 4 * i) / 2 ^ c.workShift = e := by
    intro e i hi
    rw [Nat.add_comm, Nat.add_mul_div_right _ _ (Nat.two_pow_pos _), Nat.div_eq_of_lt (by omega), Nat.zero_add]
  have hfg : f = g := by
    rw [← hquot (e := f) hk, ← hquot (e := g) hj]
    exact congrArg (· / _) (by omega)
  subst hfg
  exact ⟨rfl, by omega⟩

/-- Settles O10: the regions do not overlap (R10), and inside each region the offsets of R110 and R111 are exact and distinct. -/
theorem regionsAreDisjoint : Obligations.RegionsAreDisjoint := fun _ _ _ _ _ h hf hg hk hj =>
  ⟨Config.ctrlOff_ne_workOff h hf hg hk, Config.ctrlOff_inj h hf hg, Config.workOff_inj h hf hg hk hj⟩

/-! ### Ill-formed configurations -/

/-- Settles O51: of the two cases of `step`, the one that gives the mover its turn asks for a well-formed configuration (R10). -/
theorem illFormedConfigIsRefused : Obligations.IllFormedConfigIsRefused := by
  intro s hill
  obtain ⟨hwf, -⟩ | ⟨-, hrefused⟩ := Machine.step_cases s
  · rw [hill] at hwf
    contradiction
  · exact hrefused

end Sys2Proof
end

section
/-! PROOFS. What the decoder answers (30_encoding R91, R96) and that it reads back every command the encoder writes (R98). -/

namespace Sys2Proof

/-! ### Fields of a word -/

/-- The field that stands at bit p of a word, read back. -/
theorem extractLsb'_shiftLeft_same {n : Nat} (x : BitVec n) (p : Nat) (h : p + n ≤ 32) :
    (x.setWidth 32 <<< p).extractLsb' p n = x := by
  apply BitVec.eq_of_getLsbD_eq
  intro k hk
  simp [hk, show p + k < 32 by omega]

/-- A field that stands wholly below or above the bits read leaves them 0. -/
theorem extractLsb'_shiftLeft_of_disjoint {n m : Nat} (x : BitVec n) (p q : Nat) (h : q + n ≤ p ∨ p + m ≤ q) :
    (x.setWidth 32 <<< q).extractLsb' p m = 0 := by
  apply BitVec.eq_of_getLsbD_eq
  intro k hk
  rcases h with h | h
  · simp [hk, BitVec.getLsbD_of_ge x (p + k - q) (by omega)]
  · simp [hk, show p + k < q by omega]

/-- The head of a command word is 0 from bit 12 on (R86). -/
theorem extractLsb'_encodeHead (opc : BitVec 4) (f : BitVec 8) (p m : Nat) (h : 12 ≤ p) :
    (encodeHead opc f).extractLsb' p m = 0 := by
  have hopc := extractLsb'_shiftLeft_of_disjoint (m := m) opc p 0 (by omega)
  rw [BitVec.shiftLeft_zero] at hopc
  rw [encodeHead, BitVec.extractLsb'_or, hopc, extractLsb'_shiftLeft_of_disjoint f p 4 (by omega)]
  exact BitVec.or_zero

/-! ### The decoder -/

/-- Every command word holds its opcode and FIFO index where R86 puts them. -/
theorem encode_head : ∀ i : Instr, Laws.Head.Statement i
  | .clear f r => Laws.Head.clear f r
  | .init f r => Laws.Head.init f r
  | .setvalid f en r => Laws.Head.setvalid f en r
  | .setctl f c p e v x r => Laws.Head.setctl f c p e v x r

/-- The opcode selects the decoder's row, and each operand is read where the encoder put it. -/
theorem decode_encode (i : Instr) : decode (encode i) = .ok i := by
  obtain ⟨hopc, hfifo⟩ := encode_head i
  cases i <;>
    · simp only [decode, hopc, hfifo, Instr.opc, Instr.fifo]
      simp (disch := omega) [encode, extractLsb'_encodeHead, extractLsb'_shiftLeft_same, extractLsb'_shiftLeft_of_disjoint,
        BitVec.extractLsb'_or]

/-- The decoder itself rejects with kind OPC only (R91). -/
theorem decode_error {w : Word} {k : RejectKind} (h : decode w = .error k) : k = .opc := by
  unfold decode at h
  split at h <;> cases h
  rfl

/-- A request is rejected in one of three ways, in the order of R96. -/
theorem decodeRequest_error {n : Nat} {busy : Bool} {w : Word} {k : RejectKind} (h : decodeRequest n busy w = .error k) :
    (k = .busy ∧ busy = true) ∨ (k = .opc ∧ busy = false ∧ decode w = .error .opc)
      ∨ (k = .fifo ∧ busy = false ∧ ∃ i, decode w = .ok i ∧ n ≤ i.fifo.toNat) := by
  unfold decodeRequest at h
  split_ifs at h with hbusy
  · cases h
    exact .inl ⟨rfl, hbusy⟩
  · rw [Bool.not_eq_true] at hbusy
    split at h
    · next k' hk =>
      cases h
      cases decode_error hk
      exact .inr (.inl ⟨rfl, hbusy, hk⟩)
    · next i hi =>
      split_ifs at h with hfifo
      cases h
      exact .inr (.inr ⟨rfl, hbusy, i, hi, by simpa [Instr.wf] using hfifo⟩)

/-- A request is accepted exactly when no command runs and the word is a command whose FIFO exists (R96). -/
theorem decodeRequest_ok_iff {n : Nat} {busy : Bool} {w : Word} {i : Instr} :
    decodeRequest n busy w = .ok i ↔ busy = false ∧ decode w = .ok i ∧ i.wf n = true := by
  unfold decodeRequest
  constructor
  · intro h
    split_ifs at h with hbusy
    split at h
    · cases h
    · next j hj =>
      split_ifs at h with hfifo
      cases h
      exact ⟨by simpa using hbusy, hj, hfifo⟩
  · rintro ⟨hbusy, hi, hfifo⟩
    simp [hbusy, hi, hfifo]

end Sys2Proof
end

section
/-! PROOFS. What one step of the machine can do: the Host's, the Device's and reset's steps written out, and a command's steps by
`exec`. Every rule of the whole machine is read off these cases. -/

namespace Sys2Proof.Machine

/-! ### The turns -/

/-- A step under a well-formed configuration is the next mover's turn. -/
theorem step_eq_takeTurn {s : State} (hwf : s.cfg.wf = true) : step s = takeTurn s.nextTurn s.popTurn := if_pos hwf

/-- No step has a meaning under an ill-formed configuration (00_scope R10). -/
theorem wf_of_step {s t : State} (h : step s = .next t) : s.cfg.wf = true := by
  obtain ⟨hwf, -⟩ | ⟨-, he⟩ := step_cases s
  · exact hwf
  · cases he.symm.trans h

/-- The state right after a Host write of HIF, its event recorded, before the effect of the register written (44_host_access R182). -/
def State.hostWrote (s : State) (o x : Word) (rest : List HostOp) : State :=
  { s with sched := s.sched.tail, hostProg := rest, hist := s.hist ++ [.hifWr o x] }

/-- A Host write of HIF by the register written (R182). -/
theorem hifWrite_cases (s : State) {o : Word} (x : Word) :
    (o = 0x00 ∧ hifWrite s o x = requestCommand (s.emit (.hifWr 0x00 x)) x)
      ∨ (o = 0x08 ∧ hifWrite s o x = .next ((s.emit (.hifWr 0x08 x)).clearFlags x))
      ∨ ∃ harg limit, hifWrite s o x = .next { s.emit (.hifWr o x) with harg := harg, limit := limit } := by
  unfold hifWrite
  split
  · next ho =>
    cases BitVec.eq_of_toNat_eq (y := 0x00#32) ho
    exact .inl ⟨rfl, rfl⟩
  · exact .inr (.inr ⟨_, _, rfl⟩)
  · next ho =>
    cases BitVec.eq_of_toNat_eq (y := 0x08#32) ho
    exact .inr (.inl ⟨rfl, rfl⟩)
  · exact .inr (.inr ⟨_, _, rfl⟩)
  · exact .inr (.inr ⟨_, _, rfl⟩)

/-- A store changes RS and the draw counter only. -/
theorem State.store_eq (s : State) (o v : Word) : s.store o v = { s with rs := (s.store o v).rs, draws := (s.store o v).draws } := by
  unfold State.store
  split <;> rfl

/-- A Device step puts one word into RS (20_memory R70). -/
theorem deviceStep_cases {d : DeviceStep} {s t : State} (h : deviceStep d s = .next t) :
    (∃ f x, f < s.cfg.numFifos ∧ t = s.deviceSet (s.cfg.ctrlOff f) (Config.deviceWord s.cfg (s.fcr f) x))
      ∨ (∃ f k x, f < s.cfg.numFifos ∧ k < s.cfg.slotCount ∧ t = s.deviceSet (s.cfg.workOff f (BitVec.ofNat 32 k)) x)
      ∨ ∃ o x, o.toNat % 4 = 0 ∧ s.cfg.isCtrl o = false ∧ t = s.deviceSet o x := by
  cases d with
  | control f x =>
    simp only [deviceStep] at h
    split_ifs at h with hf
    cases h
    exact .inl ⟨f, x, hf, rfl⟩
  | working f k x =>
    simp only [deviceStep] at h
    split_ifs at h with hfk
    cases h
    exact .inr (.inl ⟨f, k, x, hfk.1, hfk.2, rfl⟩)
  | platform o x =>
    simp only [deviceStep] at h
    split_ifs at h with ho
    cases h
    exact .inr (.inr ⟨o, x, ho.1, ho.2.1, rfl⟩)

theorem deviceStep_eq_deviceSet {d : DeviceStep} {s t : State} (h : deviceStep d s = .next t) : ∃ o x, t = s.deviceSet o x := by
  obtain ⟨_, _, -, ht⟩ | ⟨_, _, _, -, -, ht⟩ | ⟨_, _, -, -, ht⟩ := deviceStep_cases h <;> exact ⟨_, _, ht⟩

/-! ### The cases of a step -/

/-- Everything one step can do, by the mover. -/
inductive State.Moves (s : State) : State → Prop where
  /-- A step that is none of the block's own: a turn that passes, a Host access other than a write of HCMD or HSTATUS, a Device step. -/
  | environment {harg : Word} {limit : BitVec 16} {rs : Memory} {hist : List Event} {draws : Nat} {prog : List HostOp}
      {sched : List Turn} (hreset : s.nextTurn ≠ .reset) (hidle : s.nextTurn = .controller → s.phase = .idle)
      (hrs : s.rs.wf = true → rs.wf = true) :
      s.Moves { s with harg := harg, limit := limit, rs := rs, hist := hist, draws := draws, hostProg := prog, sched := sched }
  /-- Reset (70_reset_and_hazards R230). -/
  | reset (hturn : s.nextTurn = .reset) : s.Moves s.popTurn.doReset
  /-- A Host write of HSTATUS (44_host_access R184). -/
  | acknowledge {x : Word} {rest : List HostOp} (hturn : s.nextTurn = .host) (hprog : s.hostProg = .hifWrite 4 0x08 x :: rest) :
      s.Moves ((s.hostWrote 0x08 x rest).clearFlags x)
  /-- A Host write of HCMD that is rejected (R183). -/
  | rejected {x : Word} {rest : List HostOp} {k : RejectKind} (hturn : s.nextTurn = .host)
      (hprog : s.hostProg = .hifWrite 4 0x00 x :: rest) (hk : decodeRequest s.cfg.numFifos s.busy x = .error k) :
      s.Moves ((s.hostWrote 0x00 x rest).reject k x)
  /-- A Host write of HCMD that is accepted (R183). -/
  | accepted {x : Word} {rest : List HostOp} {i : Instr} {t : State} (hturn : s.nextTurn = .host)
      (hprog : s.hostProg = .hifWrite 4 0x00 x :: rest) (hi : decodeRequest s.cfg.numFifos s.busy x = .ok i)
      (hexec : exec i (s.hostWrote 0x00 x rest) = .next t) : s.Moves t
  /-- A step of the running command (40_bus_primitives R112). -/
  | command {i : Instr} {t : State} (hturn : s.nextTurn = .controller) (hrun : s.phase ≠ .idle) (hi : decode s.lCmd = .ok i)
      (hexec : exec i s.popTurn = .next t) : s.Moves t

section
variable {s t : State}

/-- The case `environment`, for a state given by its own name. -/
theorem State.Moves.of_frame (hreset : s.nextTurn ≠ .reset) (hidle : s.nextTurn = .controller → s.phase = .idle)
    (hrs : s.rs.wf = true → t.rs.wf = true)
    (ht : t = { s with harg := t.harg, limit := t.limit, rs := t.rs, hist := t.hist, draws := t.draws, hostProg := t.hostProg,
                       sched := t.sched }) : s.Moves t := by
  rw [ht]
  exact .environment hreset hidle hrs

theorem moves_of_controllerTurn (hturn : s.nextTurn = .controller) (h : controllerTurn s.popTurn = .next t) : s.Moves t := by
  obtain ⟨hbusy, he⟩ | ⟨hbusy, i, hi, he⟩ | ⟨-, k, -, he⟩ := controllerTurn_cases s.popTurn <;> rw [he] at h
  · cases h
    exact .of_frame (by simp [hturn]) (fun _ => (State.not_busy_iff _).1 hbusy) id rfl
  · exact .command hturn ((State.busy_iff _).1 hbusy) hi h
  · cases h

theorem moves_of_requestCommand {x : Word} {rest : List HostOp} (hturn : s.nextTurn = .host)
    (hprog : s.hostProg = .hifWrite 4 0x00 x :: rest) (h : requestCommand (s.hostWrote 0x00 x rest) x = .next t) : s.Moves t := by
  obtain ⟨k, hk, he⟩ | ⟨i, hi, he⟩ := requestCommand_cases (s.hostWrote 0x00 x rest) x <;> rw [he] at h
  · cases h
    exact .rejected hturn hprog hk
  · exact .accepted hturn hprog hi h

theorem moves_of_hifWrite {o x : Word} {rest : List HostOp} (hturn : s.nextTurn = .host)
    (hprog : s.hostProg = .hifWrite 4 o x :: rest) (h : hifWrite { s.popTurn with hostProg := rest } o x = .next t) : s.Moves t := by
  obtain ⟨rfl, he⟩ | ⟨rfl, he⟩ | ⟨_, _, he⟩ := hifWrite_cases { s.popTurn with hostProg := rest } x (o := o) <;> rw [he] at h
  · exact moves_of_requestCommand hturn hprog h
  · cases h
    exact .acknowledge hturn hprog
  · cases h
    exact .of_frame (by simp [hturn]) (by simp [hturn]) id rfl

theorem moves_of_hostStep {op : HostOp} {rest : List HostOp} (hturn : s.nextTurn = .host) (hprog : s.hostProg = op :: rest)
    (h : hostStep { s.popTurn with hostProg := rest } op = .next t) : s.Moves t := by
  have hreset : s.nextTurn ≠ .reset := by simp [hturn]
  have hidle : s.nextTurn = .controller → s.phase = .idle := by simp [hturn]
  cases op with
  | hifRead width o =>
    simp only [hostStep] at h
    split_ifs at h
    cases h
    exact .of_frame hreset hidle id rfl
  | hifWrite width o x =>
    simp only [hostStep] at h
    split_ifs at h with hadmit
    obtain rfl : width = 4 := by simp [hifAdmits] at hadmit; exact hadmit.1.1
    exact moves_of_hifWrite hturn hprog h
  | waitIdle =>
    simp only [hostStep] at h
    split_ifs at h <;> cases h <;> exact .of_frame hreset hidle id rfl
  | rsRead o =>
    simp only [hostStep, hostRsRead] at h
    split at h <;> cases h
    exact .of_frame hreset hidle id rfl
  | rsWrite o v =>
    simp only [hostStep, hostRsWrite] at h
    split at h <;> cases h
    exact .of_frame hreset hidle (fun hrs => State.store_wf _ _ hrs) (by rw [State.store_eq]; rfl)

theorem moves_of_hostTurn (hturn : s.nextTurn = .host) (h : hostTurn s.popTurn = .next t) : s.Moves t := by
  unfold hostTurn at h
  split at h
  · cases h
    exact .of_frame (by simp [hturn]) (by simp [hturn]) id rfl
  · next op rest hprog => exact moves_of_hostStep hturn hprog h

/-- A step does what its mover can do. -/
theorem moves_of_step (h : step s = .next t) : s.Moves t := by
  rw [step_eq_takeTurn (wf_of_step h)] at h
  match hturn : s.nextTurn, h with
  | .controller, h => exact moves_of_controllerTurn hturn h
  | .host, h => exact moves_of_hostTurn hturn h
  | .device d, h =>
    obtain ⟨o, x, rfl⟩ := deviceStep_eq_deviceSet h
    exact .of_frame (by simp [hturn]) (by simp [hturn]) (Memory.writeWord_wf o x) rfl
  | .reset, h =>
    cases h
    exact .reset hturn

end

end Sys2Proof.Machine
end

section
/-! PROOFS. What the steps of a command do to the state: its acceptance written out (44_host_access R183), and the registers its
later steps leave alone. -/

namespace Sys2Proof

/-- The phase an accepted command starts in (10_state R35). -/
def Instr.firstPhase : Instr → Machine.Phase
  | .clear _ _ => .clr
  | .init _ _ => .clr
  | .setvalid _ _ _ => .svrd
  | .setctl _ _ _ _ _ _ _ => .poll

/-- SLOT after the acceptance: the first slot of a clear, else as before (41_clear_init R120, R124). -/
def Instr.firstSlot (s : Machine.State) : Instr → Word
  | .clear _ _ => clearFirstSlot s.harg
  | .init _ _ => s.cfg.lastSlot
  | .setvalid _ _ _ => s.slot
  | .setctl _ _ _ _ _ _ _ => s.slot

/-- POLLS after the acceptance: no read yet for SET_CONTROL, else as before (43_set_control R151). -/
def Instr.firstPolls (s : Machine.State) : Instr → BitVec 17
  | .clear _ _ => s.polls
  | .init _ _ => s.polls
  | .setvalid _ _ _ => s.polls
  | .setctl _ _ _ _ _ _ _ => 0

/-- Where a command's clear goes on (41_clear_init R121). -/
def Instr.continuation : Instr → Machine.Continuation
  | .clear _ _ => .done
  | .init _ _ => .initw
  | .setvalid _ _ _ => .done
  | .setctl _ _ _ _ _ _ _ => .commit

namespace Machine

/-! ### Acceptance -/

/-- The state right after the acceptance of command i. -/
def State.begin (s : State) (i : Instr) : State :=
  { s.accept (encode i) with phase := i.firstPhase, slot := i.firstSlot s, polls := i.firstPolls s }

/-- In IDLE the meaning of a command is its acceptance. -/
theorem exec_of_idle {s : State} (i : Instr) (h : s.phase = .idle) : exec i s = .next (s.begin i) := by
  cases i <;>
    · simp only [exec, execClear, execInit, execSetvalid, execSetctl, h]
      rfl

theorem firstPhase_ne_idle (i : Instr) : i.firstPhase ≠ .idle := by cases i <;> simp [Instr.firstPhase]

/-! ### The steps that follow -/

/-- What the later steps of a command may change: the controller's working registers, RS, the history and the draw counter. -/
inductive State.Works (s : State) : State → Prop where
  | intro {phase : Phase} {w : Word} {polls : BitVec 17} {slot : Word} {path : Path} {rs : Memory} {hist : List Event} {draws : Nat} :
      s.Works { s with phase := phase, w := w, polls := polls, slot := slot, path := path, rs := rs, hist := hist, draws := draws }

theorem State.clearStep_works (s : State) (k : Continuation) (f : BitVec 8) : s.Works (s.clearStep k f) := by
  obtain ⟨-, he⟩ | ⟨-, -, he⟩ | ⟨-, -, he⟩ := s.clearStep_cases k f <;> rw [he]
  · cases k <;> exact .intro
  · rw [State.clearSlot_eq]
    cases k <;> exact .intro
  · rw [State.clearSlot_eq]
    exact .intro

theorem State.initwStep_works (s : State) (f : BitVec 8) : s.Works (s.initwStep f) := by
  rw [State.initwStep, State.memWrite_eq]
  exact .intro

theorem State.svwrStep_works (s : State) (f : BitVec 8) (en : BitVec 1) : s.Works (s.svwrStep f en) := by
  rw [State.svwrStep, State.memWrite_eq]
  exact .intro

theorem State.commitStep_works (s : State) (f : BitVec 8) (c : BitVec 1) (p : BitVec 2) (e x : BitVec 1) :
    s.Works (s.commitStep f c p e x) := by
  rw [State.commitStep, State.memWrite_eq]
  exact .intro

/-- A POLL step sets TIMEOUT past the ceiling and reports its reads when it ends Phase 1; beside that it is a step like the others
(43_set_control R152). -/
theorem State.pollStep_works (s : State) (f : BitVec 8) (v : BitVec 1) :
    ∃ pollCount, State.Works { s with
      timeout := s.timeout || (s.cfg.readOnly (s.fcr f.toNat) && decide (s.lLim.toNat < (s.polls + 1).toNat))
      pollCount := pollCount } (s.pollStep f v) := by
  obtain ⟨hro, he⟩ | ⟨hro, hlim, he⟩ | ⟨hro, hlim, he⟩ := s.pollStep_cases f v <;> rw [he]
  · refine ⟨s.polls + 1, ?_⟩
    rw [hro, Bool.false_and, Bool.or_false]
    obtain ⟨-, hs⟩ | ⟨-, hs⟩ := (s.pollRead f).reportPolls.selectPath_cases v <;> rw [hs] <;> exact .intro
  · refine ⟨s.polls + 1, ?_⟩
    rw [hro, decide_eq_true hlim, Bool.true_and, Bool.or_true]
    obtain ⟨-, hs⟩ | ⟨-, hs⟩ := ((s.pollRead f).raiseTimeout f (s.fcr f.toNat)).reportPolls.selectPath_cases v <;> rw [hs] <;>
      exact .intro
  · refine ⟨s.pollCount, ?_⟩
    rw [decide_eq_false (by omega), Bool.and_false, Bool.or_false]
    exact .intro

/-- A step of a running command is a POLL step of SET_CONTROL, or it leaves every register alone but the controller's working ones. -/
theorem exec_running {i : Instr} {s t : State} (hrun : s.phase ≠ .idle) (h : exec i s = .next t) :
    (s.phase ≠ .poll ∧ s.Works t)
      ∨ (s.phase = .poll ∧ ∃ f c p e v x r, i = .setctl f c p e v x r ∧ t = s.pollStep f v) := by
  cases i with
  | clear f r =>
    obtain ⟨hp, -⟩ | ⟨hp, rfl⟩ := execClear_next h
    · exact absurd hp hrun
    · exact .inl ⟨by simp [hp], s.clearStep_works _ f⟩
  | init f r =>
    obtain ⟨hp, -⟩ | ⟨hp, rfl⟩ | ⟨hp, rfl⟩ := execInit_next h
    · exact absurd hp hrun
    · exact .inl ⟨by simp [hp], s.clearStep_works _ f⟩
    · exact .inl ⟨by simp [hp], s.initwStep_works f⟩
  | setvalid f en r =>
    obtain ⟨hp, -⟩ | ⟨hp, rfl⟩ | ⟨hp, rfl⟩ := execSetvalid_next h
    · exact absurd hp hrun
    · exact .inl ⟨by simp [hp], .intro⟩
    · exact .inl ⟨by simp [hp], s.svwrStep_works f en⟩
  | setctl f c p e v x r =>
    obtain ⟨hp, -⟩ | ⟨hp, ht⟩ | ⟨hp, rfl⟩ | ⟨hp, rfl⟩ | ⟨hp, rfl⟩ := execSetctl_next h
    · exact absurd hp hrun
    · exact .inr ⟨hp, f, c, p, e, v, x, r, rfl, ht⟩
    · exact .inl ⟨by simp [hp], s.clearStep_works _ f⟩
    · exact .inl ⟨by simp [hp], s.commitStep_works f c p e x⟩
    · exact .inl ⟨by simp [hp], .intro⟩

/-- Whatever the phase, a step of a running command changes TIMEOUT, HPOLL_COUNT and the controller's working registers at most. -/
theorem exec_running_works {i : Instr} {s t : State} (hrun : s.phase ≠ .idle) (h : exec i s = .next t) :
    ∃ timeout pollCount, State.Works { s with timeout := timeout, pollCount := pollCount } t := by
  obtain ⟨-, hw⟩ | ⟨-, f, _, _, _, v, _, _, -, rfl⟩ := exec_running hrun h
  · exact ⟨s.timeout, s.pollCount, hw⟩
  · exact ⟨_, s.pollStep_works f v⟩

end Machine

end Sys2Proof
end

section
/-! PROOFS. The rules of the whole machine that are read off the cases of a step: the sticky bits of HSTATUS (10_state R25, R26), the
reported registers (R22, R29, R32) and the configuration (R20). -/

namespace Sys2Proof.Machine

section
variable {s t : State}

/-- No command runs when a request is accepted, and the step is the command's acceptance. -/
theorem accepted_begin {x : Word} {rest : List HostOp} {i : Instr} (hi : decodeRequest s.cfg.numFifos s.busy x = .ok i)
    (hexec : exec i (s.hostWrote 0x00 x rest) = .next t) : s.phase = .idle ∧ t = (s.hostWrote 0x00 x rest).begin i := by
  obtain ⟨hbusy, -, -⟩ := decodeRequest_ok_iff.1 hi
  have hidle := (State.not_busy_iff s).1 hbusy
  rw [exec_of_idle i (s := s.hostWrote 0x00 x rest) hidle] at hexec
  cases hexec
  exact ⟨hidle, rfl⟩

/-- No mover changes the configuration. -/
theorem State.Moves.cfg_eq (h : s.Moves t) : t.cfg = s.cfg := by
  cases h with
  | environment _ _ _ => rfl
  | reset _ => rfl
  | acknowledge _ _ => rfl
  | rejected _ _ _ => exact State.reject_cfg _ _ _
  | accepted _ _ hi hexec =>
    obtain ⟨-, rfl⟩ := accepted_begin hi hexec
    rfl
  | command _ hrun _ hexec =>
    obtain ⟨_, _, ⟨⟩⟩ := exec_running_works (s := s.popTurn) hrun hexec
    rfl

/-- TIMEOUT after a step: the case of POLL is R152, the Host's is R184, else it stays or reset clears it. -/
theorem State.Moves.timeout_cases (h : s.Moves t) :
    (s.nextTurn ≠ .reset ∧ (s.nextTurn = .controller → s.phase ≠ .poll) ∧ t.timeout = s.timeout)
      ∨ (s.nextTurn = .reset ∧ t.timeout = false)
      ∨ (s.nextTurn = .host ∧ ∃ x rest, s.hostProg = .hifWrite 4 0x08 x :: rest ∧ t.timeout = (s.timeout && !x.getLsbD 1))
      ∨ (s.nextTurn = .controller ∧ s.phase = .poll ∧ ∃ f c p e v x r, decode s.lCmd = .ok (.setctl f c p e v x r)
          ∧ t.timeout = (s.timeout || (s.cfg.readOnly (s.fcr f.toNat) && decide (s.lLim.toNat < (s.polls + 1).toNat)))) := by
  cases h with
  | environment hreset hidle _ => exact .inl ⟨hreset, fun hc => by simp [hidle hc], rfl⟩
  | reset hturn => exact .inr (.inl ⟨hturn, rfl⟩)
  | acknowledge hturn hprog => exact .inr (.inr (.inl ⟨hturn, _, _, hprog, rfl⟩))
  | rejected hturn _ _ => exact .inl ⟨by simp [hturn], by simp [hturn], State.reject_timeout _ _ _⟩
  | accepted hturn _ hi hexec =>
    obtain ⟨-, rfl⟩ := accepted_begin hi hexec
    exact .inl ⟨by simp [hturn], by simp [hturn], rfl⟩
  | command hturn hrun hi hexec =>
    obtain ⟨hpoll, ⟨⟩⟩ | ⟨hpoll, f, c, p, e, v, x, r, rfl, rfl⟩ := exec_running (s := s.popTurn) hrun hexec
    · exact .inl ⟨by simp [hturn], fun _ => hpoll, rfl⟩
    · refine .inr (.inr (.inr ⟨hturn, hpoll, f, c, p, e, v, x, r, hi, ?_⟩))
      obtain ⟨_, hworks⟩ := s.popTurn.pollStep_works f v
      generalize s.popTurn.pollStep f v = u at hworks
      cases hworks
      rfl

/-- The error bits after a step: a rejection sets the bit it names (60_exceptions R203), the Host clears (R184), reset clears all. -/
theorem State.Moves.error_cases (h : s.Moves t) :
    (t.errBusy = s.errBusy ∧ t.errOpc = s.errOpc ∧ t.errFifo = s.errFifo)
      ∨ s.nextTurn = .reset ∧ t.errBusy = false ∧ t.errOpc = false ∧ t.errFifo = false
      ∨ (s.nextTurn = .host ∧ ∃ x rest, s.hostProg = .hifWrite 4 0x08 x :: rest ∧ t.errBusy = (s.errBusy && !x.getLsbD 2)
          ∧ t.errOpc = (s.errOpc && !x.getLsbD 3) ∧ t.errFifo = (s.errFifo && !x.getLsbD 4))
      ∨ (s.nextTurn = .host ∧ ∃ x rest k, s.hostProg = .hifWrite 4 0x00 x :: rest
          ∧ decodeRequest s.cfg.numFifos s.busy x = .error k ∧ t.errBusy = (s.errBusy || decide (k = .busy))
          ∧ t.errOpc = (s.errOpc || decide (k = .opc)) ∧ t.errFifo = (s.errFifo || decide (k = .fifo))) := by
  cases h with
  | environment _ _ _ => exact .inl ⟨rfl, rfl, rfl⟩
  | reset hturn => exact .inr (.inl ⟨hturn, rfl, rfl, rfl⟩)
  | acknowledge hturn hprog => exact .inr (.inr (.inl ⟨hturn, _, _, hprog, rfl, rfl, rfl⟩))
  | rejected hturn hprog hk =>
    exact .inr (.inr (.inr ⟨hturn, _, _, _, hprog, hk, State.reject_errBusy _ _ _, State.reject_errOpc _ _ _,
      State.reject_errFifo _ _ _⟩))
  | accepted _ _ hi hexec =>
    obtain ⟨-, rfl⟩ := accepted_begin hi hexec
    exact .inl ⟨rfl, rfl, rfl⟩
  | command _ hrun _ hexec =>
    obtain ⟨_, _, ⟨⟩⟩ := exec_running_works (s := s.popTurn) hrun hexec
    exact .inl ⟨rfl, rfl, rfl⟩

/-- HPOLL_COUNT changes in a POLL step or at reset only (R29). -/
theorem State.Moves.pollCount_cases (h : s.Moves t) :
    s.nextTurn = .reset ∨ (s.nextTurn = .controller ∧ s.phase = .poll) ∨ t.pollCount = s.pollCount := by
  cases h with
  | environment _ _ _ => exact .inr (.inr rfl)
  | reset hturn => exact .inl hturn
  | acknowledge _ _ => exact .inr (.inr rfl)
  | rejected _ _ _ => exact .inr (.inr (State.reject_pollCount _ _ _))
  | accepted _ _ hi hexec =>
    obtain ⟨-, rfl⟩ := accepted_begin hi hexec
    exact .inr (.inr rfl)
  | command hturn hrun _ hexec =>
    obtain ⟨-, ⟨⟩⟩ | ⟨hpoll, -⟩ := exec_running (s := s.popTurn) hrun hexec
    · exact .inr (.inr rfl)
    · exact .inr (.inl ⟨hturn, hpoll⟩)

/-- HCMD and the latches change at an acceptance, which loads them all, or at reset only (R22, R32). -/
theorem State.Moves.latch_cases (h : s.Moves t) :
    s.nextTurn = .reset
      ∨ (s.nextTurn = .host ∧ s.phase = .idle ∧ t.phase ≠ .idle ∧ t.hcmd = t.lCmd ∧ t.lArg = s.harg ∧ t.lLim = s.limit)
      ∨ (t.hcmd = s.hcmd ∧ t.lCmd = s.lCmd ∧ t.lArg = s.lArg ∧ t.lLim = s.lLim) := by
  cases h with
  | environment _ _ _ => exact .inr (.inr ⟨rfl, rfl, rfl, rfl⟩)
  | reset hturn => exact .inl hturn
  | acknowledge _ _ => exact .inr (.inr ⟨rfl, rfl, rfl, rfl⟩)
  | rejected _ _ _ =>
    exact .inr (.inr ⟨State.reject_hcmd _ _ _, State.reject_lCmd _ _ _, State.reject_lArg _ _ _, State.reject_lLim _ _ _⟩)
  | accepted hturn _ hi hexec =>
    obtain ⟨hidle, rfl⟩ := accepted_begin hi hexec
    exact .inr (.inl ⟨hturn, hidle, firstPhase_ne_idle _, rfl, rfl, rfl⟩)
  | command _ hrun _ hexec =>
    obtain ⟨_, _, ⟨⟩⟩ := exec_running_works (s := s.popTurn) hrun hexec
    exact .inr (.inr ⟨rfl, rfl, rfl, rfl⟩)

end

/-- Settles O54: each mover's case names its next state with the configuration it had. -/
theorem configurationNeverChanges : Obligations.ConfigurationNeverChanges := fun _ _ h => (moves_of_step h).cfg_eq

/-- Settles O56: of the four cases of TIMEOUT only POLL's can set it, and only the Host's and reset's can clear it. -/
theorem timeoutIsSticky : Obligations.TimeoutIsSticky := by
  intro s t h
  obtain ⟨hreset, hpoll, ht⟩ | ⟨hturn, ht⟩ | ⟨hturn, x, rest, hprog, ht⟩ | ⟨hturn, hpoll, f, c, p, e, v, x, r, hi, ht⟩ :=
    (moves_of_step h).timeout_cases
  · exact ⟨by simp_all, fun _ _ _ _ _ _ _ hc hp => absurd hp (hpoll hc), by simp_all, fun hr => absurd hr hreset⟩
  · exact ⟨by simp_all, by simp_all, fun _ _ => .inl hturn, fun _ => ht⟩
  · exact ⟨by simp_all, by simp_all, fun hs h0 => .inr ⟨hturn, x, rest, hprog, by simp_all⟩, by simp_all⟩
  · refine ⟨fun hs h1 => ⟨hturn, hpoll, f, c, p, e, v, x, r, hi, by simp_all⟩, ?_, by simp_all, by simp_all⟩
    intro _ _ _ _ _ _ _ _ _ hi' hro hlim
    cases hi.symm.trans hi'
    rw [ht, hro, decide_eq_true hlim, Bool.and_true, Bool.or_true]

/-- Settles O57: only a rejection sets an error bit, its own, and only the Host's and reset's cases clear one. -/
theorem errorBitsBySource : Obligations.ErrorBitsBySource := by
  intro s t h asks acks
  obtain ⟨hb, ho, hf⟩ | ⟨hturn, hb, ho, hf⟩ | ⟨hturn, x, rest, hprog, hb, ho, hf⟩ | ⟨hturn, x, rest, k, hprog, hk, hb, ho, hf⟩ :=
    (moves_of_step h).error_cases
  · simp_all
  · exact ⟨by simp_all, by simp_all, by simp_all, fun _ _ => .inl hturn, fun _ _ => .inl hturn, fun _ _ => .inl hturn⟩
  · have hacks (b : Nat) (hbit : x.getLsbD b = true) : acks b := .inr ⟨hturn, x, rest, hprog, hbit⟩
    exact ⟨by simp_all, by simp_all, by simp_all, fun _ _ => hacks 2 (by simp_all), fun _ _ => hacks 3 (by simp_all),
      fun _ _ => hacks 4 (by simp_all)⟩
  · have hask : asks x := ⟨hturn, rest, hprog⟩
    obtain ⟨rfl, hbusy⟩ | ⟨rfl, hbusy, hopc⟩ | ⟨rfl, hbusy, i, hi, hfifo⟩ := decodeRequest_error hk
    · have hrun := (State.busy_iff s).1 hbusy
      exact ⟨fun _ _ => ⟨x, hask, hrun⟩, by simp_all, by simp_all, by simp_all, by simp_all, by simp_all⟩
    · have hidle := (State.not_busy_iff s).1 hbusy
      exact ⟨by simp_all, fun _ _ => ⟨x, hask, hidle, hopc⟩, by simp_all, by simp_all, by simp_all, by simp_all⟩
    · have hidle := (State.not_busy_iff s).1 hbusy
      exact ⟨by simp_all, by simp_all, fun _ _ => ⟨x, i, hask, hidle, hi, hfifo⟩, by simp_all, by simp_all, by simp_all⟩

/-- Settles O58: without a reset, HPOLL_COUNT changes in POLL's case only, HCMD and the latches in the acceptance's case only. -/
theorem reportedRegistersBySource : Obligations.ReportedRegistersBySource := by
  intro s t h hreset
  have hmoves := moves_of_step h
  constructor
  · intro hne
    obtain hturn | hpoll | hsame := hmoves.pollCount_cases
    · exact absurd hturn hreset
    · exact hpoll
    · exact absurd hsame hne
  · intro hne
    obtain hturn | haccept | ⟨hcmd, hlcmd, harg, hlim⟩ := hmoves.latch_cases
    · exact absurd hturn hreset
    · exact haccept
    · simp_all

end Sys2Proof.Machine
end

section
/-! PROOFS. The invariant of the machine: it holds at reset, and every step keeps it (10_state R29, R31, R35). -/

namespace Sys2Proof.Machine

/-! ### Slots as signed numbers -/

/-- The last slot of a well-formed block is one of a FIFO's slots. -/
theorem lastSlot_inRange {c : Sys2Proof.Config} (h : c.wf = true) : 0 ≤ c.lastSlot.toInt ∧ c.lastSlot.toInt < c.slotCount := by
  obtain ⟨-, ⟨hpos, hmax⟩, -⟩ := Config.fields_of_wf h
  have hone : (1 : Word).toNat = 1 := rfl
  have hnat : c.lastSlot.toNat = c.slotCount - 1 := by
    rw [Sys2Proof.Config.lastSlot, BitVec.toNat_sub, BitVec.toNat_ofNat, hone]
    omega
  rw [BitVec.toInt_eq_toNat_of_lt (by omega), hnat]
  omega

/-- One below a slot that is not negative does not wrap. -/
theorem toInt_sub_one {x : Word} (h : 0 ≤ x.toInt) : (x - 1).toInt = x.toInt - 1 := by
  have hmax := BitVec.toInt_lt (x := x)
  have hone : (1 : Word).toInt = 1 := by decide
  rw [BitVec.toInt_sub, hone, Int.bmod_eq_of_le (by omega) (by omega)]

/-- The first slot of CLEAR_WD lies between -1 and `count - 1` (41_clear_init R120). -/
theorem clearFirstSlot_bounds (arg : Word) :
    -1 ≤ (clearFirstSlot arg).toInt ∧ (clearFirstSlot arg).toInt + 1 ≤ max (clearCount arg) 0 := by
  unfold clearFirstSlot clearCount
  split_ifs with h
  · rw [toInt_sub_one (by omega)]
    omega
  · simp

/-- A clear that goes on stays in the slots of its command. -/
theorem slotOk_sub_one {c : Sys2Proof.Config} {arg x : Word} {i : Instr} (h : i.slotOk c arg x) (hx : 0 ≤ x.toInt)
    (hpred : 0 ≤ (x - 1).toInt) : i.slotOk c arg (x - 1) := by
  have hsub := toInt_sub_one hx
  cases i with
  | setvalid f en r => trivial
  | clear | init | setctl =>
    simp only [Instr.slotOk] at h ⊢
    omega

/-! ### Where the invariant comes from -/

section
variable {s t : State} {i : Instr}

/-- With no command running, RS and HPOLL_COUNT are all there is to show. -/
theorem State.Inv.of_idle (hrs : s.rs.wf = true) (hcount : s.pollCount.toNat ≤ 65536) (h : s.phase = .idle) : s.Inv :=
  ⟨hrs, hcount, .inl h⟩

/-- The invariant speaks of RS, the configuration and the controller's registers; every other field may change. -/
theorem State.Inv.of_frame (h : s.Inv) (hrs : t.rs.wf = true)
    (ht : t = { s with hcmd := t.hcmd, harg := t.harg, timeout := t.timeout, errBusy := t.errBusy, errOpc := t.errOpc,
                       errFifo := t.errFifo, limit := t.limit, rs := t.rs, hist := t.hist, draws := t.draws, hostProg := t.hostProg,
                       sched := t.sched }) : t.Inv := by
  rw [ht]
  refine ⟨hrs, h.pollCount, h.command.imp_right ?_⟩
  rintro ⟨i, hi⟩
  exact ⟨i, hi.word, hi.fifo, hi.phase, hi.slot, hi.polls, hi.phase1⟩

theorem powerUp_inv (c : Sys2Proof.Config) {m : Memory} (h : m.wf = true) : (State.powerUp c m).Inv :=
  .of_idle h (Nat.zero_le _) rfl

/-! ### Acceptance -/

/-- An accepted command starts in a phase of its own, its first slot in range, no read yet. -/
theorem State.begin_running (hwf : s.cfg.wf = true) (hfifo : i.wf s.cfg.numFifos = true) : (s.begin i).Running i where
  word := decode_encode i
  fifo := of_decide_eq_true hfifo
  phase := by cases i <;> rfl
  slot := by
    intro hclr
    cases i with
    | clear f r => exact clearFirstSlot_bounds s.harg
    | init f r => exact lastSlot_inRange hwf
    | setvalid f en r => trivial
    | setctl f c p e v x r => cases hclr
  polls := by
    intro hpoll
    cases i with
    | setctl f c p e v x r => exact Nat.zero_le _
    | clear | init | setvalid => cases hpoll
  phase1 := by
    cases i with
    | setctl f c p e v x r => exact fun hpoll => absurd rfl hpoll
    | clear | init | setvalid => trivial

/-! ### The steps of a running command -/

/-- A command that ends leaves nothing to show of it. -/
theorem State.finish_inv (hrs : s.rs.wf = true) (hcount : s.pollCount.toNat ≤ 65536) : s.finish.Inv := .of_idle hrs hcount rfl

theorem State.Inv.of_running (hrs : s.rs.wf = true) (hcount : s.pollCount.toNat ≤ 65536) (h : s.Running i) : s.Inv :=
  ⟨hrs, hcount, .inr ⟨i, h⟩⟩

theorem State.Running.ne_idle (h : s.Running i) : s.phase ≠ .idle := by
  intro hidle
  have howns := h.phase
  rw [hidle] at howns
  cases i <;> cases howns

/-- Past Phase 1 and the clear, nothing is asked of SLOT: a command may go on to any phase of its own but those two. -/
theorem State.Running.goto_later (h : s.Running i) {p : Phase} {slot : Word} {rs : Memory} {hist : List Event} {draws : Nat}
    (hs : s.phase ≠ .poll) (howns : i.owns p = true) (hpoll : p ≠ .poll) (hclr : p ≠ .clr) :
    State.Running { s with phase := p, slot := slot, rs := rs, hist := hist, draws := draws } i where
  word := h.word
  fifo := h.fifo
  phase := howns
  slot hp := absurd hp hclr
  polls hp := absurd hp hpoll
  phase1 := by
    cases i with
    | setctl f c p e v x r =>
      obtain ⟨hpos, hmax, hcount, hpath, -⟩ := h.phase1 hs
      exact fun _ => ⟨hpos, hmax, hcount, hpath, fun hp => absurd hp hclr⟩
    | clear | init | setvalid => trivial

end

section
variable {s t : State} {i : Instr}

/-- The end of a clear keeps the invariant, whatever SLOT, RS and the history became. -/
theorem continueAt_inv (h : s.Inv) (hrun : s.Running i) (hclr : s.phase = .clr) {slot : Word} {rs : Memory} {hist : List Event}
    {draws : Nat} (hrs : rs.wf = true) :
    (State.continueAt { s with slot := slot, rs := rs, hist := hist, draws := draws } i.continuation).Inv := by
  have hs : s.phase ≠ .poll := by simp [hclr]
  cases i with
  | clear | setvalid => exact State.finish_inv hrs h.pollCount
  | init | setctl => exact .of_running hrs h.pollCount (hrun.goto_later hs rfl (by decide) (by decide))

/-- A clear step either ends the clear or goes down one slot of the command's own (R121). -/
theorem clearStep_inv (h : s.Inv) (hrun : s.Running i) (hclr : s.phase = .clr) (f : BitVec 8) :
    (s.clearStep i.continuation f).Inv := by
  have hrs := State.store_wf (s.cfg.workOff f.toNat s.slot) 0 h.rs
  obtain ⟨-, he⟩ | ⟨-, -, he⟩ | ⟨hslot, hpred, he⟩ := s.clearStep_cases i.continuation f <;> rw [he]
  · exact continueAt_inv h hrun hclr h.rs
  · rw [State.clearSlot_eq]
    exact continueAt_inv h hrun hclr hrs
  · rw [State.clearSlot_eq]
    exact .of_running hrs h.pollCount
      ⟨hrun.word, hrun.fifo, hrun.phase, fun _ => slotOk_sub_one (hrun.slot hclr) hslot hpred, hrun.polls, hrun.phase1⟩

section
variable {f : BitVec 8} {c : BitVec 1} {p : BitVec 2} {e v x : BitVec 1} {r : BitVec 14}

/-- Path selection starts the clear at the last slot or goes to COMMIT, the reads counted and reported (43_set_control R154). -/
theorem selectPath_inv (hwf : s.cfg.wf = true) (hrs : s.rs.wf = true) (hword : decode s.lCmd = .ok (.setctl f c p e v x r))
    (hfifo : f.toNat < s.cfg.numFifos) (hpos : 1 ≤ s.polls.toNat) (hmax : s.polls.toNat ≤ s.lLim.toNat + 1)
    (hcount : s.pollCount = s.polls) : (s.selectPath v).Inv := by
  have hlim := s.lLim.isLt
  have hbound : s.pollCount.toNat ≤ 65536 := by
    rw [hcount]
    omega
  obtain ⟨hclears, he⟩ | ⟨-, he⟩ := s.selectPath_cases v <;> rw [he]
  · exact .of_running (i := .setctl f c p e v x r) hrs hbound
      ⟨hword, hfifo, rfl, fun _ => lastSlot_inRange hwf, nofun, fun _ => ⟨hpos, hmax, hcount, rfl, fun _ => hclears⟩⟩
  · exact .of_running (i := .setctl f c p e v x r) hrs hbound
      ⟨hword, hfifo, rfl, nofun, nofun, fun _ => ⟨hpos, hmax, hcount, rfl, nofun⟩⟩

/-- A POLL step ends Phase 1 by its read or by its ceiling, or reads again with POLLS at most the ceiling (R152, R153). -/
theorem pollStep_inv (hwf : s.cfg.wf = true) (h : s.Inv) (hrun : s.Running (.setctl f c p e v x r)) (hpoll : s.phase = .poll) :
    (s.pollStep f v).Inv := by
  have hpolls := hrun.polls hpoll
  have hlim := s.lLim.isLt
  have hsucc : (s.polls + 1).toNat = s.polls.toNat + 1 := BitVec.toNat_add_of_lt (by change s.polls.toNat + 1 < 2 ^ 17; omega)
  have hpos : 1 ≤ (s.polls + 1).toNat := by omega
  have hmax : (s.polls + 1).toNat ≤ s.lLim.toNat + 1 := by omega
  obtain ⟨-, he⟩ | ⟨-, -, he⟩ | ⟨-, hle, he⟩ := s.pollStep_cases f v <;> rw [he]
  · exact selectPath_inv hwf h.rs hrun.word hrun.fifo hpos hmax rfl
  · exact selectPath_inv hwf h.rs hrun.word hrun.fifo hpos hmax rfl
  · exact .of_running h.rs h.pollCount ⟨hrun.word, hrun.fifo, rfl, nofun, fun _ => hle, fun hp => absurd rfl hp⟩

end

/-- Every step of a running command keeps the invariant. -/
theorem exec_running_inv (hwf : s.cfg.wf = true) (h : s.Inv) (hrun : s.Running i) (hexec : exec i s = .next t) : t.Inv := by
  cases i with
  | clear f r =>
    obtain ⟨hp, -⟩ | ⟨hp, rfl⟩ := execClear_next hexec
    · exact absurd hp hrun.ne_idle
    · exact clearStep_inv h hrun hp f
  | init f r =>
    obtain ⟨hp, -⟩ | ⟨hp, rfl⟩ | ⟨hp, rfl⟩ := execInit_next hexec
    · exact absurd hp hrun.ne_idle
    · exact clearStep_inv h hrun hp f
    · exact State.finish_inv (State.memWrite_wf _ _ h.rs) (by simpa using h.pollCount)
  | setvalid f en r =>
    obtain ⟨hp, -⟩ | ⟨hp, rfl⟩ | ⟨hp, rfl⟩ := execSetvalid_next hexec
    · exact absurd hp hrun.ne_idle
    · exact .of_running h.rs h.pollCount ⟨hrun.word, hrun.fifo, rfl, nofun, nofun, trivial⟩
    · exact State.finish_inv (State.memWrite_wf _ _ h.rs) (by simpa using h.pollCount)
  | setctl f c p e v x r =>
    obtain ⟨hp, -⟩ | ⟨hp, rfl⟩ | ⟨hp, rfl⟩ | ⟨hp, rfl⟩ | ⟨hp, rfl⟩ := execSetctl_next hexec
    · exact absurd hp hrun.ne_idle
    · exact pollStep_inv hwf h hrun hp
    · exact clearStep_inv h hrun hp f
    · rw [State.commitStep, State.memWrite_eq]
      exact .of_running (State.store_wf _ _ h.rs) h.pollCount (hrun.goto_later (by simp [hp]) rfl (by decide) (by decide))
    · exact State.finish_inv h.rs h.pollCount

/-- Every mover keeps the invariant. -/
theorem State.Moves.inv (hwf : s.cfg.wf = true) (h : s.Inv) (hmoves : s.Moves t) : t.Inv := by
  cases hmoves with
  | environment _ _ hrs => exact h.of_frame (hrs h.rs) rfl
  | reset _ => exact (powerUp_inv s.cfg h.rs).of_frame h.rs rfl
  | acknowledge _ _ => exact h.of_frame h.rs rfl
  | @rejected _ _ k _ _ _ => cases k <;> exact h.of_frame h.rs rfl
  | accepted _ _ hi hexec =>
    obtain ⟨-, -, hfifo⟩ := decodeRequest_ok_iff.1 hi
    obtain ⟨-, rfl⟩ := accepted_begin hi hexec
    exact .of_running h.rs h.pollCount (State.begin_running hwf hfifo)
  | command _ hrun hi hexec =>
    obtain hidle | ⟨j, hj⟩ := h.command
    · exact absurd hidle hrun
    · cases hj.word.symm.trans hi
      exact exec_running_inv (s := s.popTurn) hwf (h.of_frame h.rs rfl)
        ⟨hj.word, hj.fifo, hj.phase, hj.slot, hj.polls, hj.phase1⟩ hexec

end

/-- Settles O53: the invariant is kept in each of the cases of a step, in a command's by the phase it is in. -/
theorem stepKeepsInvariant : Obligations.StepKeepsInvariant := by
  intro s t hinv h
  exact (moves_of_step h).inv (wf_of_step h) hinv

/-- Settles O52: after power-up no command runs, and HPOLL_COUNT is 0. -/
theorem invariantAtReset : Obligations.InvariantAtReset := ⟨fun c _ h => powerUp_inv c h, powerUp_inv _ Memory.wf_nil⟩

end Sys2Proof.Machine
end

section
/-! PROOFS. The Device's bits of a control word (10_state R43), the reset values (R48), and which command a step runs (20_memory R64,
44_host_access R183, 40_bus_primitives R112). -/

namespace Sys2Proof.Machine

/-! ### The Device's steps -/

/-- Every control register of a well-formed block stands at an aligned offset. -/
theorem ctrlOff_aligned {c : Sys2Proof.Config} (h : c.wf = true) {f : Nat} (hf : f < c.numFifos) : (c.ctrlOff f).toNat % 4 = 0 := by
  obtain ⟨⟨hbase, hshift, -⟩, -⟩ := Config.regions_of_wf h
  have hstride : 4 ∣ f * 2 ^ c.ctrlShift := Dvd.dvd.mul_left (pow_dvd_pow 2 hshift) f
  rw [Config.ctrlOff_toNat_of_wf h hf]
  omega

/-- So does every working word. -/
theorem workOff_aligned {c : Sys2Proof.Config} (h : c.wf = true) {f k : Nat} (hf : f < c.numFifos) (hk : k < c.slotCount) :
    (c.workOff f (BitVec.ofNat 32 k)).toNat % 4 = 0 := by
  obtain ⟨-, ⟨hbase, hslots, -⟩, -⟩ := Config.regions_of_wf h
  have hshift : 2 ≤ c.workShift := by
    obtain ⟨-, ⟨hpos, -⟩, -⟩ := Config.fields_of_wf h
    by_contra hlt
    have hpow : 2 ^ c.workShift ≤ 2 ^ 1 := Nat.pow_le_pow_right (by decide) (by omega)
    omega
  have hstride : 4 ∣ f * 2 ^ c.workShift := Dvd.dvd.mul_left (pow_dvd_pow 2 hshift) f
  rw [Config.workOff_slot_toNat h hf hk]
  omega

/-- A Device write to another aligned word leaves a control word alone. -/
theorem fcr_deviceSet_other {s : State} (hwf : s.cfg.wf = true) {f : Nat} (hf : f < s.cfg.numFifos) {o : Word} (x : Word)
    (ho : o.toNat % 4 = 0) (hne : o ≠ s.cfg.ctrlOff f) : (s.deviceSet o x).fcr f = s.fcr f :=
  Memory.readWord_writeWord_other _ _ _ _ (word_ne_of_aligned ho (ctrlOff_aligned hwf hf) hne)

/-- The Device's control step changes hardware-owned bits only (20_memory R70). -/
theorem deviceWord_and_not (c : Sys2Proof.Config) (old x : Word) :
    Config.deviceWord c old x &&& ~~~c.hwOwnedMask = old &&& ~~~c.hwOwnedMask := by
  apply BitVec.eq_of_getLsbD_eq
  intro k hk
  cases hmask : c.hwOwnedMask[k] <;> simp [Config.deviceWord, hk, hmask]

/-- Settles O45: a control step keeps the bits outside the mask of its own register, every other step writes another word. -/
theorem deviceKeepsSoftwareBits : Obligations.DeviceKeepsSoftwareBits := by
  intro s t d hwf h
  constructor
  · intro g hg
    obtain ⟨f, x, hf, rfl⟩ | ⟨f, k, x, hf, hk, rfl⟩ | ⟨o, x, ho, hctrl, rfl⟩ := deviceStep_cases h
    · by_cases hfg : f = g
      · subst hfg
        have hnew : (s.deviceSet (s.cfg.ctrlOff f) (Config.deviceWord s.cfg (s.fcr f) x)).fcr f
            = Config.deviceWord s.cfg (s.fcr f) x := Memory.readWord_writeWord_same _ _ _
        rw [hnew, deviceWord_and_not]
      · rw [fcr_deviceSet_other hwf hg _ (ctrlOff_aligned hwf hf) fun he => hfg (Config.ctrlOff_inj hwf hf hg he)]
    · rw [fcr_deviceSet_other hwf hg _ (workOff_aligned hwf hf hk) fun he => Config.ctrlOff_ne_workOff hwf hg hf hk he.symm]
    · rw [fcr_deviceSet_other hwf hg _ ho]
      rintro rfl
      have := (Config.isCtrl_iff s.cfg _).2 ⟨g, hg, rfl⟩
      rw [hctrl] at this
      contradiction
  · obtain ⟨o, x, rfl⟩ := deviceStep_eq_deviceSet h
    rfl

/-! ### Reset -/

/-- Settles O46: each register is read where `State.powerUp` put it; HCONFIG is the variant's code. -/
theorem resetValues : Obligations.ResetValues := by
  intro c m
  refine ⟨rfl, rfl, ?_, ?_, rfl, rfl, rfl, rfl, rfl, rfl, rfl, rfl, rfl, rfl, rfl, rfl, rfl⟩
  · simp [State.hifValue, State.hstatus, State.powerUp, State.busy, flagBit]
  · cases hv : c.variant <;> simp [State.hifValue, State.powerUp, Sys2Proof.Config.variantCode, hv]

/-! ### Which command a step runs -/

/-- The Host's turn with a write of HCMD at the head of its program is that command request. -/
theorem hostTurn_of_command {s : State} {x : Word} {rest : List HostOp} (h : s.hostProg = .hifWrite 4 0x00 x :: rest) :
    hostTurn s = requestCommand ({ s with hostProg := rest }.emit (.hifWr 0x00 x)) x := by
  unfold hostTurn
  rw [h]
  rfl

/-- Settles O48: the Host's turn is the request, and the request of a command with no other running is accepted (R96). -/
theorem stepRunsRequestedCommand : Obligations.StepRunsRequestedCommand := by
  intro s x rest i hwf hturn hprog hidle hi hfifo
  have hok : decodeRequest s.cfg.numFifos s.busy x = .ok i :=
    decodeRequest_ok_iff.2 ⟨(State.not_busy_iff s).2 hidle, hi, hfifo⟩
  rw [step_eq_takeTurn hwf, hturn]
  change hostTurn s.popTurn = _
  rw [hostTurn_of_command (s := s.popTurn) hprog]
  obtain ⟨k, hk, -⟩ | ⟨j, hj, he⟩ := requestCommand_cases ({ s.popTurn with hostProg := rest }.emit (.hifWr 0x00 x)) x
  · cases hok.symm.trans hk
  · cases hok.symm.trans hj
    exact he

/-- Settles O49: of the three cases of the Controller's turn, the one with a command running and its word in L_CMD. -/
theorem stepRunsRunningCommand : Obligations.StepRunsRunningCommand := by
  intro s i hwf hturn hrun hi
  rw [step_eq_takeTurn hwf, hturn]
  obtain ⟨hbusy, -⟩ | ⟨-, j, hj, he⟩ | ⟨-, k, hk, -⟩ := controllerTurn_cases s.popTurn
  · exact absurd ((State.not_busy_iff _).1 hbusy) hrun
  · cases hi.symm.trans hj
    exact he
  · cases hi.symm.trans hk

/-- A word of the opcode table is the decoder's own. -/
theorem decode_of_decodeTableWord {n w : Nat} {i : Instr} (h : decodeTableWord n w = some i) :
    decode (BitVec.ofNat 32 (w % 2 ^ n)) = .ok i := by
  unfold decodeTableWord at h
  split at h <;> cases h
  assumption

/-- Settles O50: the word placed is the Host's next operation with no command running, so the next step is O48's. -/
theorem fetchWordRunsNext : Obligations.FetchWordRunsNext := by
  intro s w i hwf hi hfifo
  have hword : BitVec.ofNat 32 (w % 2 ^ 32) = BitVec.ofNat 32 w := BitVec.eq_of_toNat_eq (by simp)
  have hstep := stepRunsRequestedCommand (s.withFetchWord 32 w) _ _ i hwf rfl rfl rfl (decode_of_decodeTableWord hi) hfifo
  rw [hword] at hstep
  exact hstep

end Sys2Proof.Machine
end

section
/-! PROOFS. RS and its accesses (20_memory): every offset is aligned (R66), a write changes one word (R63), the Host's own accesses
(R72) and the Device's steps (R70). -/

namespace Sys2Proof

/-! ### Aligned offsets -/

/-- A multiple of 4 stays one modulo 2^32. -/
theorem four_dvd_mod_two_pow {n : Nat} (h : 4 ∣ n) : 4 ∣ n % 2 ^ 32 := (Nat.dvd_mod_iff (by decide)).2 h

/-- The working memory's stride is at least one word, for it holds at least one slot. -/
theorem Config.two_le_workShift {c : Config} (h : c.wf = true) : 2 ≤ c.workShift := by
  obtain ⟨-, ⟨hpos, -⟩, -⟩ := Config.fields_of_wf h
  obtain ⟨-, ⟨-, hslots, -⟩, -⟩ := Config.regions_of_wf h
  exact (Nat.pow_le_pow_iff_right (by decide : 1 < 2)).1 (le_trans (by omega) hslots)

/-- Base and stride of the control registers are multiples of 4, for any FIFO index. -/
theorem Config.four_dvd_ctrlOff {c : Config} (h : c.wf = true) (f : Nat) : 4 ∣ (c.ctrlOff f).toNat := by
  obtain ⟨⟨hbase, hshift, -⟩, -⟩ := Config.regions_of_wf h
  rw [Config.ctrlOff_toNat]
  exact four_dvd_mod_two_pow (Nat.dvd_add (Nat.dvd_of_mod_eq_zero hbase) (Dvd.dvd.mul_left (pow_dvd_pow 2 hshift) f))

/-- So are those of the working memory, and a slot is a word, for any FIFO index and slot. -/
theorem Config.four_dvd_workOff {c : Config} (h : c.wf = true) (f : Nat) (s : Word) : 4 ∣ (c.workOff f s).toNat := by
  obtain ⟨-, ⟨hbase, -⟩, -⟩ := Config.regions_of_wf h
  have hstride : 4 ∣ f * 2 ^ c.workShift := Dvd.dvd.mul_left (pow_dvd_pow 2 (Config.two_le_workShift h)) f
  rw [Config.workOff_toNat]
  exact four_dvd_mod_two_pow (Nat.dvd_add (Nat.dvd_add (Nat.dvd_of_mod_eq_zero hbase) hstride) (Nat.dvd_mul_right 4 _))

/-- Settles O9: each offset is a sum of multiples of 4, and the modulus 2^32 is one too. -/
theorem offsetsAreAligned : Obligations.OffsetsAreAligned := fun _ f s h =>
  ⟨Nat.mod_eq_zero_of_dvd (Config.four_dvd_ctrlOff h f), Nat.mod_eq_zero_of_dvd (Config.four_dvd_workOff h f s)⟩

/-! ### The words of the block -/

theorem Config.isCtrl_eq_false_iff (c : Config) (o : Word) : c.isCtrl o = false ↔ ∀ f, f < c.numFifos → o ≠ c.ctrlOff f := by
  simp [← Bool.not_eq_true, Config.isCtrl_iff, eq_comm (a := o)]

theorem Config.isWork_eq_false_iff (c : Config) (o : Word) :
    c.isWork o = false ↔ ∀ f k, f < c.numFifos → k < c.slotCount → o ≠ c.workOff f (BitVec.ofNat 32 k) := by
  rw [← Bool.not_eq_true, Config.isWork_iff]
  constructor
  · exact fun h f k hf hk he => h ⟨f, hf, k, hk, he.symm⟩
  · rintro h ⟨f, hf, k, hk, he⟩
    exact h f k hf hk he.symm

end Sys2Proof

namespace Sys2Proof.Machine

/-! ### The write transaction -/

/-- A write is lost exactly on a control register whose `read_only` is 1 (20_memory R63). -/
theorem State.busyAt_iff (s : State) (o : Word) :
    s.busyAt o = true ↔ (∃ f, f < s.cfg.numFifos ∧ o = s.cfg.ctrlOff f) ∧ (s.rsWord o).getLsbD s.cfg.roBit = true := by
  simp [State.busyAt, Config.readOnly, Config.isCtrl_iff, eq_comm (a := o)]

/-- Settles O16: of the two cases of a store, `read_only` of a control register decides; both write one word. -/
theorem busWrite : Obligations.BusWrite := by
  intro s o v
  have hword : ∀ {x}, (s.store o v).rs = s.rs.writeWord o x → (s.memWrite o v).rsWord o = x := by
    intro x hx
    rw [State.rsWord, State.memWrite_rs, hx, Memory.readWord_writeWord_same]
  have hdraws := s.memWrite_draws o v
  refine ⟨s.memWrite_hist o v, fun hctrl hro => ?_, fun hfree => ?_, fun a ha => ?_⟩
  · have hbusy := (s.busyAt_iff o).2 ⟨hctrl, hro⟩
    obtain ⟨-, hrs, hd⟩ | ⟨hnot, -⟩ := s.store_cases o v
    · exact ⟨hword hrs, hdraws.trans hd⟩
    · cases hnot.symm.trans hbusy
  · obtain ⟨hbusy, -⟩ | ⟨-, hrs, hd⟩ := s.store_cases o v
    · obtain ⟨⟨f, hf, ho⟩, hro⟩ := (s.busyAt_iff o).1 hbusy
      obtain hother | hwritable := hfree
      · exact absurd ho (hother f hf)
      · cases hro.symm.trans hwritable
    · exact ⟨hword hrs, hdraws.trans hd⟩
  · rw [State.memWrite_rs, State.readByte_store s o v ha]

/-! ### The Host's own accesses -/

/-- An offset of the FIFO whose command runs: its control register or one of its slots (20_memory R72). -/
theorem State.ofRunningFifo_iff (s : State) (o : Word) :
    s.ofRunningFifo o = true ↔ s.phase ≠ .idle ∧ (o = s.cfg.ctrlOff (cmdFifo s.lCmd).toNat
      ∨ ∃ k, k < s.cfg.slotCount ∧ o = s.cfg.workOff (cmdFifo s.lCmd).toNat (BitVec.ofNat 32 k)) := by
  simp [State.ofRunningFifo, State.busy_iff, Config.isWorkOf_iff, eq_comm (a := o)]

theorem hostStep_rs_refused {s : State} {o : Word} (v : Word) {r : Refusal} (h : s.rsRefusal o = some r) :
    hostStep s (.rsRead o) = .refused r ∧ hostStep s (.rsWrite o v) = .refused r := by
  simp [hostStep, hostRsRead, hostRsWrite, h]

theorem hostStep_rs_next {s : State} {o : Word} (v : Word) (h : s.rsRefusal o = none) :
    hostStep s (.rsRead o) = .next (s.emit (.hrd o (s.rsWord o)))
      ∧ hostStep s (.rsWrite o v) = .next ((s.emit (.hwr o v)).store o v) := by
  simp [hostStep, hostRsRead, hostRsWrite, h]

/-- An event and a store do not meet. -/
theorem State.store_emit (s : State) (e : Event) (o v : Word) : (s.emit e).store o v = (s.store o v).emit e := by
  have he := s.busyAt_emit e o
  by_cases h : s.busyAt o = true
  · rw [State.store, State.store, if_pos (he.trans h), if_pos h]
    rfl
  · rw [State.store, State.store, if_neg (he ▸ h), if_neg h]
    rfl

/-- Settles O43: the offset's alignment, then the FIFO it belongs to, decide between the two refusals and the access. -/
theorem hostRsAccess : Obligations.HostRsAccess := by
  intro s o v
  refine ⟨fun hmis => ?_, fun hal hrun hown => ?_, fun hal hfree => ?_⟩
  · exact hostStep_rs_refused v (if_pos hmis)
  · exact hostStep_rs_refused v ((if_neg (not_not_intro hal)).trans (if_pos ((s.ofRunningFifo_iff o).2 ⟨hrun, hown⟩)))
  · have hnot : ¬ s.ofRunningFifo o = true := by
      rw [State.ofRunningFifo_iff]
      rintro ⟨hrun, hown⟩
      exact hfree.elim hrun (absurd hown)
    obtain ⟨hread, hwrite⟩ := hostStep_rs_next v ((if_neg (not_not_intro hal)).trans (if_neg hnot))
    refine ⟨hread, _, hwrite, ?_⟩
    rw [State.store_emit, State.memWrite_rs, State.memWrite_draws]
    exact ⟨by rw [State.store_eq]; rfl, rfl, rfl⟩

/-! ### The Device's steps -/

/-- Settles O44: each kind of Device step asks for the FIFO, slot or platform word it names, and has no step without. -/
theorem deviceSteps : Obligations.DeviceSteps := by
  intro s f k o x
  refine ⟨fun hf => if_pos hf, fun hf hk => if_pos ⟨hf, hk⟩, fun hal hctrl hwork => ?_, fun hf => ?_, fun hk => ?_, fun hown => ?_⟩
  · exact if_pos ⟨hal, (Config.isCtrl_eq_false_iff _ _).2 hctrl, (Config.isWork_eq_false_iff _ _).2 hwork⟩
  · exact ⟨if_neg (by omega), if_neg (by omega)⟩
  · exact if_neg (by omega)
  · refine if_neg ?_
    rintro ⟨hal, hctrl, hwork⟩
    obtain hmis | ⟨g, hg, ho⟩ | ⟨g, j, hg, hj, ho⟩ := hown
    · exact hmis hal
    · exact (Config.isCtrl_eq_false_iff _ _).1 hctrl g hg ho
    · exact (Config.isWork_eq_false_iff _ _).1 hwork g j hg hj ho

end Sys2Proof.Machine
end

section
/-! PROOFS. What a step of a running command does to RS and to the history: at most one transaction, on the command's own words
(40_bus_primitives R112, 20_memory R67, R69), and that the history only grows (20_memory R79). -/

namespace Sys2Proof.Machine

/-! ### One transaction -/

/-- The events of a controller step beside its transaction: the Log sink's and the command's end (20_memory R79). -/
def State.Notes (s : State) (l : List Event) : Prop := ∀ e ∈ l, (∃ f w, e = .log f w) ∨ e = .done s.lCmd

/-- The offset a controller step on FIFO f may write: the control register, or, in a clear, the slot SLOT names. -/
def State.WritesAt (s : State) (f : BitVec 8) (o : Word) : Prop :=
  o = s.cfg.ctrlOff f.toNat ∨ (s.phase = .clr ∧ 0 ≤ s.slot.toInt ∧ o = s.cfg.workOff f.toNat s.slot)

/-- Everything a controller step on FIFO f may do to RS and the history: one read, one write of a word of its own, or neither, then
notes. -/
inductive State.Transacts (s : State) (f : BitVec 8) (t : State) : Prop where
  | quiet {l : List Event} (hnotes : s.Notes l) (hhist : t.hist = s.hist ++ l) (hrs : t.rs = s.rs)
  | reads {o v : Word} {l : List Event} (hnotes : s.Notes l) (hhist : t.hist = s.hist ++ .rd o v :: l) (hrs : t.rs = s.rs)
  | writes {o v : Word} {l : List Event} (hown : s.WritesAt f o) (hnotes : s.Notes l) (hhist : t.hist = s.hist ++ .wr o v :: l)
      (hrs : t.rs = (s.store o v).rs)

theorem State.notes_nil (s : State) : s.Notes [] := by simp [State.Notes]

theorem State.notes_done (s : State) : s.Notes [.done s.lCmd] := by simp [State.Notes]

theorem State.notes_log (s : State) (f : BitVec 8) (w : Word) : s.Notes [.log f w] := by simp [State.Notes]

@[simp] theorem State.continueAt_rs (s : State) (k : Continuation) : (s.continueAt k).rs = s.rs := by cases k <;> rfl

/-- The end of a clear is noted if it is the command's end (41_clear_init R121). -/
theorem State.continueAt_hist (s : State) (k : Continuation) : ∃ l, s.Notes l ∧ (s.continueAt k).hist = s.hist ++ l := by
  cases k with
  | done => exact ⟨_, s.notes_done, rfl⟩
  | initw | commit => exact ⟨[], s.notes_nil, by simp [State.continueAt]⟩

@[simp] theorem State.selectPath_rs (s : State) (v : BitVec 1) : (s.selectPath v).rs = s.rs := by
  obtain ⟨-, h⟩ | ⟨-, h⟩ := s.selectPath_cases v <;> rw [h]

@[simp] theorem State.selectPath_hist (s : State) (v : BitVec 1) : (s.selectPath v).hist = s.hist := by
  obtain ⟨-, h⟩ | ⟨-, h⟩ := s.selectPath_cases v <;> rw [h]

theorem State.clearStep_transacts {s : State} (hclr : s.phase = .clr) (k : Continuation) (f : BitVec 8) :
    s.Transacts f (s.clearStep k f) := by
  obtain ⟨-, he⟩ | ⟨hslot, -, he⟩ | ⟨hslot, -, he⟩ := s.clearStep_cases k f <;> rw [he]
  · obtain ⟨l, hnotes, hhist⟩ := s.continueAt_hist k
    exact .quiet hnotes hhist (s.continueAt_rs k)
  · obtain ⟨l, hnotes, hhist⟩ := (s.clearSlot f).continueAt_hist k
    rw [State.clearSlot_hist, List.append_assoc] at hhist
    rw [State.Notes, State.clearSlot_lCmd] at hnotes
    exact .writes (.inr ⟨hclr, hslot, rfl⟩) hnotes hhist (by simp [State.memWrite_rs])
  · exact .writes (.inr ⟨hclr, hslot, rfl⟩) s.notes_nil (s.clearSlot_hist f) (by simp [State.memWrite_rs])

/-- A write of the control register that ends the command. -/
theorem State.ctrlWrite_finish_transacts (s : State) (f : BitVec 8) (v : Word) :
    s.Transacts f (s.memWrite (s.cfg.ctrlOff f.toNat) v).finish :=
  .writes (.inl rfl) s.notes_done (by simp) (s.memWrite_rs _ v)

theorem State.commitStep_transacts (s : State) (f : BitVec 8) (c : BitVec 1) (p : BitVec 2) (e x : BitVec 1) :
    s.Transacts f (s.commitStep f c p e x) :=
  .writes (.inl rfl) s.notes_nil (s.memWrite_hist _ _) (s.memWrite_rs _ _)

/-- A POLL step reads once, and logs a timeout past the ceiling (43_set_control R152). -/
theorem State.pollStep_transacts (s : State) (f : BitVec 8) (v : BitVec 1) : s.Transacts f (s.pollStep f v) := by
  obtain ⟨-, he⟩ | ⟨-, -, he⟩ | ⟨-, -, he⟩ := s.pollStep_cases f v <;> rw [he]
  · exact .reads s.notes_nil (State.selectPath_hist _ v) (State.selectPath_rs _ v)
  · exact .reads (o := s.cfg.ctrlOff f.toNat) (v := s.fcr f.toNat) (s.notes_log f _)
      ((State.selectPath_hist _ v).trans (List.append_assoc _ _ _)) (State.selectPath_rs _ v)
  · exact .reads s.notes_nil (s.pollRead_hist f) rfl

/-- Every step of a running command is at most one transaction on the command's FIFO (40_bus_primitives R112). -/
theorem exec_running_transacts {i : Instr} {s t : State} (hrun : s.phase ≠ .idle) (h : exec i s = .next t) :
    s.Transacts i.fifo t := by
  cases i with
  | clear f r =>
    obtain ⟨hp, -⟩ | ⟨hp, rfl⟩ := execClear_next h
    · exact absurd hp hrun
    · exact State.clearStep_transacts hp _ f
  | init f r =>
    obtain ⟨hp, -⟩ | ⟨hp, rfl⟩ | ⟨-, rfl⟩ := execInit_next h
    · exact absurd hp hrun
    · exact State.clearStep_transacts hp _ f
    · exact s.ctrlWrite_finish_transacts f _
  | setvalid f en r =>
    obtain ⟨hp, -⟩ | ⟨-, rfl⟩ | ⟨-, rfl⟩ := execSetvalid_next h
    · exact absurd hp hrun
    · exact .reads s.notes_nil rfl rfl
    · exact s.ctrlWrite_finish_transacts f _
  | setctl f c p e v x r =>
    obtain ⟨hp, -⟩ | ⟨-, rfl⟩ | ⟨hp, rfl⟩ | ⟨-, rfl⟩ | ⟨-, rfl⟩ := execSetctl_next h
    · exact absurd hp hrun
    · exact s.pollStep_transacts f v
    · exact State.clearStep_transacts hp _ f
    · exact s.commitStep_transacts f c p e x
    · exact .reads s.notes_done (List.append_assoc _ _ _) rfl

/-! ### The history -/

/-- What a controller step records: at most one transaction, then notes. -/
theorem State.Transacts.hist_cases {s t : State} {f : BitVec 8} (h : s.Transacts f t) :
    ∃ tx l, t.hist = s.hist ++ (tx ++ l) ∧ tx.length ≤ 1 ∧ (∀ e ∈ tx, (∃ o v, e = .rd o v) ∨ ∃ o v, e = .wr o v) ∧ s.Notes l := by
  cases h with
  | quiet hnotes hhist _ => exact ⟨[], _, hhist, by simp, by simp, hnotes⟩
  | @reads o v l hnotes hhist _ => exact ⟨[.rd o v], l, hhist, by simp, by simp, hnotes⟩
  | @writes o v l _ hnotes hhist _ => exact ⟨[.wr o v], l, hhist, by simp, by simp, hnotes⟩

/-- A choice of events that takes neither a Log event nor a Done takes none of the notes. -/
theorem State.Notes.filter_eq_nil {s : State} {l : List Event} (h : s.Notes l) {p : Event → Bool}
    (hlog : ∀ f w, p (.log f w) = false) (hdone : ∀ c, p (.done c) = false) : l.filter p = [] := by
  refine List.filter_eq_nil_iff.2 fun e he => ?_
  obtain ⟨f, w, rfl⟩ | rfl := h e he
  · simp [hlog]
  · simp [hdone]

/-- Settles O59: the step is one of the running command, and the events beside its transaction are notes. -/
theorem oneTransactionPerStep : Obligations.OneTransactionPerStep := by
  intro s t hrun hturn h
  have htx : ∃ f, s.popTurn.Transacts f t := by
    rw [step_eq_takeTurn (wf_of_step h), hturn] at h
    obtain ⟨hbusy, -⟩ | ⟨-, i, -, he⟩ | ⟨-, k, -, he⟩ := controllerTurn_cases s.popTurn
    · exact absurd ((State.not_busy_iff _).1 hbusy) hrun
    · exact ⟨i.fifo, exec_running_transacts hrun (he.symm.trans h)⟩
    · cases he.symm.trans h
  obtain ⟨f, htx⟩ := htx
  obtain ⟨tx, l, hhist, hone, htrans, hnotes⟩ := htx.hist_cases
  refine ⟨tx ++ l, hhist, ?_, fun e he => ?_⟩
  · rw [List.filter_append, hnotes.filter_eq_nil (fun _ _ => rfl) (fun _ => rfl), List.append_nil]
    exact (List.length_filter_le _ _).trans hone
  · obtain he | he := List.mem_append.1 he
    · exact (htrans e he).imp_right .inl
    · exact .inr (.inr (hnotes e he))

/-- A command's next step, its acceptance or a later one, only appends to the history. -/
theorem exec_hist_grows {i : Instr} {s t : State} (h : exec i s = .next t) : s.hist <+: t.hist := by
  by_cases hidle : s.phase = .idle
  · rw [exec_of_idle i hidle] at h
    cases h
    exact List.prefix_append _ _
  · obtain ⟨tx, l, hhist, -⟩ := (exec_running_transacts hidle h).hist_cases
    exact hhist ▸ List.prefix_append _ _

theorem controllerTurn_hist_grows {s t : State} (h : controllerTurn s = .next t) : s.hist <+: t.hist := by
  obtain ⟨-, he⟩ | ⟨-, i, -, he⟩ | ⟨-, k, -, he⟩ := controllerTurn_cases s <;> rw [he] at h
  · cases h
    exact List.prefix_rfl
  · exact exec_hist_grows h
  · cases h

theorem requestCommand_hist_grows {s t : State} {x : Word} (h : requestCommand s x = .next t) : s.hist <+: t.hist := by
  obtain ⟨k, -, he⟩ | ⟨i, -, he⟩ := requestCommand_cases s x <;> rw [he] at h
  · cases h
    exact s.reject_hist k x ▸ List.prefix_append _ _
  · exact exec_hist_grows h

theorem hifWrite_hist_grows {s t : State} {o x : Word} (h : hifWrite s o x = .next t) : s.hist <+: t.hist := by
  obtain ⟨rfl, he⟩ | ⟨rfl, he⟩ | ⟨_, _, he⟩ := hifWrite_cases s x (o := o) <;> rw [he] at h
  · exact (List.prefix_append _ _).trans (requestCommand_hist_grows h)
  · cases h
    exact List.prefix_append _ _
  · cases h
    exact List.prefix_append _ _

theorem hostStep_hist_grows {s t : State} {op : HostOp} (h : hostStep s op = .next t) : s.hist <+: t.hist := by
  cases op with
  | hifRead width o =>
    simp only [hostStep] at h
    split_ifs at h
    cases h
    exact List.prefix_append _ _
  | hifWrite width o x =>
    simp only [hostStep] at h
    split_ifs at h
    exact hifWrite_hist_grows h
  | waitIdle =>
    simp only [hostStep] at h
    split_ifs at h <;> cases h <;> exact List.prefix_append _ _
  | rsRead o =>
    cases hr : s.rsRefusal o with
    | some r => cases (hostStep_rs_refused 0 hr).1.symm.trans h
    | none =>
      cases (hostStep_rs_next 0 hr).1.symm.trans h
      exact List.prefix_append _ _
  | rsWrite o v =>
    cases hr : s.rsRefusal o with
    | some r => cases (hostStep_rs_refused v hr).2.symm.trans h
    | none =>
      cases (hostStep_rs_next v hr).2.symm.trans h
      simp

theorem hostTurn_hist_grows {s t : State} (h : hostTurn s = .next t) : s.hist <+: t.hist := by
  unfold hostTurn at h
  split at h
  · cases h
    exact List.prefix_rfl
  · next rest _ => exact hostStep_hist_grows (s := { s with hostProg := rest }) h

/-- Every mover but reset only appends to the history. -/
theorem takeTurn_hist_grows {turn : Turn} {s t : State} (hreset : turn ≠ .reset) (h : takeTurn turn s = .next t) :
    s.hist <+: t.hist := by
  cases turn with
  | controller => exact controllerTurn_hist_grows h
  | host => exact hostTurn_hist_grows h
  | device d =>
    obtain ⟨o, x, rfl⟩ := deviceStep_eq_deviceSet h
    exact List.prefix_append _ _
  | reset => exact absurd rfl hreset

/-- Settles O55: the mover's case, the Controller's by its one transaction. -/
theorem historyOnlyGrows : Obligations.HistoryOnlyGrows := by
  intro s t h hreset
  rw [step_eq_takeTurn (wf_of_step h)] at h
  obtain ⟨l, hl⟩ := takeTurn_hist_grows hreset h
  exact ⟨l, hl.symm⟩

/-! ### The words a command writes -/

/-- A command other than CLEAR_WD clears slots of its own FIFO only (41_clear_init R122). -/
theorem State.Running.slot_eq {s : State} {i : Instr} (h : s.Running i) (hclr : s.phase = .clr) (hi : ∀ f r, i ≠ .clear f r) :
    ∃ k, k < s.cfg.slotCount ∧ s.slot = BitVec.ofNat 32 k := by
  have hrange : 0 ≤ s.slot.toInt ∧ s.slot.toInt < s.cfg.slotCount := by
    cases i with
    | clear f r => exact absurd rfl (hi f r)
    | setvalid f en r =>
      have howns := h.phase
      rw [hclr] at howns
      cases howns
    | init | setctl => exact h.slot hclr
  obtain ⟨hpos, hlt⟩ := hrange
  have hnat : s.slot.toInt = s.slot.toNat := BitVec.toInt_eq_toNat_of_msb (by simpa [BitVec.msb_eq_toInt] using hpos)
  exact ⟨s.slot.toNat, by omega, (BitVec.ofNat_toNat 32 s.slot).symm⟩

/-- A step of a command leaves every aligned word alone but the one it may write. -/
theorem State.Transacts.rsWord_eq {s t : State} {f : BitVec 8} (h : s.Transacts f t) (hwf : s.cfg.wf = true) {o : Word}
    (ho : o.toNat % 4 = 0) (hother : ¬ s.WritesAt f o) : t.rsWord o = s.rsWord o := by
  cases h with
  | quiet _ _ hrs => exact congrArg (·.readWord o) hrs
  | reads _ _ hrs => exact congrArg (·.readWord o) hrs
  | @writes p v l hown _ _ hrs =>
    have hp : p.toNat % 4 = 0 := by
      obtain rfl | ⟨-, -, rfl⟩ := hown
      · exact Nat.mod_eq_zero_of_dvd (Config.four_dvd_ctrlOff hwf _)
      · exact Nat.mod_eq_zero_of_dvd (Config.four_dvd_workOff hwf _ _)
    have hne : p ≠ o := fun he => hother (he ▸ hown)
    exact (congrArg (·.readWord o) hrs).trans (s.readWord_store p v (word_ne_of_aligned hp ho hne))

/-- Settles O37: by the invariant SLOT is one of the FIFO's slots while it clears, so what the step may write is a word of the FIFO. -/
theorem commandStaysInItsFifo : Obligations.CommandStaysInItsFifo := by
  intro s t i hinv hwf hrun hturn hi hnotClear h o ho hctrl hwork
  have hexec : exec i s.popTurn = .next t := (stepRunsRunningCommand s i hwf hturn hrun hi).symm.trans h
  obtain hidle | ⟨j, hj⟩ := hinv.command
  · exact absurd hidle hrun
  cases hj.word.symm.trans hi
  refine (exec_running_transacts (s := s.popTurn) hrun hexec).rsWord_eq hwf ho ?_
  rintro (rfl | ⟨hclr, -, rfl⟩)
  · exact hctrl rfl
  · obtain ⟨k, hk, hslot⟩ := hj.slot_eq hclr hnotClear
    exact hwork k hk (congrArg _ hslot)

end Sys2Proof.Machine
end

section
/-! PROOFS. The encoder gives back every word the decoder reads (30_encoding R92, R98), and a request is answered by the opcode and the
FIFO index of its word (R90, R91, R96). -/

namespace Sys2Proof

/-! ### A word from its fields -/

/-- The bits of `mask n` are the low n (00_scope R12). -/
theorem getElem_mask (n : Nat) {k : Nat} (hk : k < 32) : (mask n)[k] = decide (k < n) := by
  rw [mask, ← BitVec.getLsbD_eq_getElem, BitVec.getLsbD_ofNat, Nat.testBit_two_pow_sub_one, decide_eq_true hk, Bool.true_and]

/-- The field after a word's low p bits, put back in its place, makes them the low p + n. -/
theorem and_mask_or_extractLsb' (w : Word) (p n : Nat) :
    w &&& mask p ||| (w.extractLsb' p n).setWidth 32 <<< p = w &&& mask (p + n) := by
  apply BitVec.eq_of_getLsbD_eq
  intro k hk
  by_cases hlow : k < p
  · simp [getElem_mask, hk, hlow, show k < p + n by omega]
  · have hfield : k - p < n ↔ k < p + n := by omega
    simp [getElem_mask, hk, hlow, hfield, show p + (k - p) = k by omega, Bool.and_comm]

/-- All 32 bits of a word. -/
theorem and_mask_32 (w : Word) : w &&& mask 32 = w := BitVec.and_allOnes

/-- A word's opcode and FIFO index are its low 12 bits (R86). -/
theorem encodeHead_of_word {w : Word} {opc : BitVec 4} (h : cmdOpc w = opc) : encodeHead opc (cmdFifo w) = w &&& mask 12 := by
  have hopc : (cmdOpc w).setWidth 32 = w &&& mask 4 := by simpa [mask, cmdOpc] using and_mask_or_extractLsb' w 0 4
  rw [encodeHead, ← h, hopc]
  exact and_mask_or_extractLsb' w 4 8

/-- The decoder's fields lie end to end from bit 0 to bit 31, so the encoder puts the whole word together again. -/
theorem encode_of_decode {w : Word} {i : Instr} (h : decode w = .ok i) : encode i = w := by
  unfold decode at h
  split at h
  case h_5 => cases h
  all_goals
    next hopc =>
      cases h
      simp only [encode, BitVec.ofNat_eq_ofNat, encodeHead_of_word hopc, and_mask_or_extractLsb', Nat.reduceAdd, and_mask_32]

/-- Settles O1: each field is read where the encoder put it, and the fields read make up the whole word. -/
theorem decodeEncodeRoundTrip : Obligations.DecodeEncodeRoundTrip := ⟨decode_encode, fun _ _ => encode_of_decode⟩

/-! ### The decoder's rows -/

section
variable {w : Word}

theorem decode_of_opc_one (h : cmdOpc w = 1) : decode w = .ok (.clear (cmdFifo w) (w.extractLsb' 12 20)) := by
  rw [decode, h]
  rfl

theorem decode_of_opc_two (h : cmdOpc w = 2) : decode w = .ok (.init (cmdFifo w) (w.extractLsb' 12 20)) := by
  rw [decode, h]
  rfl

theorem decode_of_opc_three (h : cmdOpc w = 3) :
    decode w = .ok (.setvalid (cmdFifo w) (w.extractLsb' 12 1) (w.extractLsb' 13 19)) := by
  rw [decode, h]
  rfl

theorem decode_of_opc_four (h : cmdOpc w = 4) :
    decode w = .ok (.setctl (cmdFifo w) (w.extractLsb' 12 1) (w.extractLsb' 13 2) (w.extractLsb' 15 1) (w.extractLsb' 16 1)
      (w.extractLsb' 17 1) (w.extractLsb' 18 14)) := by
  rw [decode, h]
  rfl

/-- The reserved opcodes are 0 and those from 5 on (R91). -/
theorem decode_of_reserved (h : cmdOpc w = 0 ∨ 5 ≤ (cmdOpc w).toNat) : decode w = .error .opc := by
  unfold decode
  split
  case h_5 => rfl
  all_goals
    next hopc =>
      rw [hopc] at h
      exact absurd h (by decide)

/-- Opcodes 1 to 4 are commands, of the FIFO the word names (R90). -/
theorem exists_decode_of_legal (h1 : 1 ≤ (cmdOpc w).toNat) (h4 : (cmdOpc w).toNat ≤ 4) :
    ∃ i : Instr, decode w = .ok i ∧ i.fifo = cmdFifo w := by
  obtain h | h | h | h : cmdOpc w = 1 ∨ cmdOpc w = 2 ∨ cmdOpc w = 3 ∨ cmdOpc w = 4 := by bv_omega
  · exact ⟨_, decode_of_opc_one h, rfl⟩
  · exact ⟨_, decode_of_opc_two h, rfl⟩
  · exact ⟨_, decode_of_opc_three h, rfl⟩
  · exact ⟨_, decode_of_opc_four h, rfl⟩

end

/-- A request with no command running whose word is no command. -/
theorem decodeRequest_of_decode_error {w : Word} {k : RejectKind} (n : Nat) (h : decode w = .error k) :
    decodeRequest n false w = .error k := by
  simp [decodeRequest, h]

/-- A command of a FIFO that does not exist (R93). -/
theorem decodeRequest_of_fifo_ge {w : Word} {i : Instr} {n : Nat} (h : decode w = .ok i) (hfifo : n ≤ i.fifo.toNat) :
    decodeRequest n false w = .error .fifo := by
  simp [decodeRequest, h, Instr.wf, hfifo]

/-- A command of a FIFO that exists. -/
theorem decodeRequest_of_fifo_lt {w : Word} {i : Instr} {n : Nat} (h : decode w = .ok i) (hfifo : i.fifo.toNat < n) :
    decodeRequest n false w = .ok i :=
  decodeRequest_ok_iff.2 ⟨rfl, h, decide_eq_true hfifo⟩

/-- Settles O2: BUSY answers first, then the opcode's row, then the FIFO index of that row's command. -/
theorem decodeRequestAnswersByOrder : Obligations.DecodeRequestAnswersByOrder := by
  intro n busy w opc f
  refine ⟨?_, ?_, ?_, ?_⟩
  · rintro rfl
    rfl
  · rintro rfl hres
    exact decodeRequest_of_decode_error n (decode_of_reserved hres)
  · rintro rfl h1 h4 hfifo
    obtain ⟨i, hi, hf⟩ := exists_decode_of_legal h1 h4
    exact decodeRequest_of_fifo_ge hi (hf ▸ hfifo)
  · rintro rfl hfifo
    exact ⟨fun h => decodeRequest_of_fifo_lt (decode_of_opc_one h) hfifo, fun h => decodeRequest_of_fifo_lt (decode_of_opc_two h) hfifo,
      fun h => decodeRequest_of_fifo_lt (decode_of_opc_three h) hfifo, fun h => decodeRequest_of_fifo_lt (decode_of_opc_four h) hfifo⟩

/-- Settles O4: the words are the spec's own literals, so the decoder is run on each. -/
theorem sampleWordsDecode : Obligations.SampleWordsDecode := by
  unfold Obligations.SampleWordsDecode
  decide

end Sys2Proof
end

section
/-! PROOFS. The assembler: which operands it takes (30_encoding R97), the Host operations of each line (R99, R100), the encoder's formulas
on the numbers written (R98), those numbers read back (R94), and `waitidle` (R99). -/

namespace Sys2Proof

/-! ### The ranges of the operands -/

section
variable {f : Nat}

theorem wf_clear_iff {n : Int} : (AsmLine.clear f n).wf = true ↔ f ≤ 255 ∧ -(2 ^ 31) ≤ n ∧ n ≤ 2 ^ 31 - 1 := by
  simp [AsmLine.wf, asmFifoOk, and_assoc]

theorem wf_init_iff {e : Nat} : (AsmLine.init f e).wf = true ↔ f ≤ 255 ∧ e ≤ 2 ^ 32 - 1 := by
  simp [AsmLine.wf, asmFifoOk]

theorem wf_setvalid_iff {en : Nat} : (AsmLine.setvalid f en).wf = true ↔ f ≤ 255 ∧ en ≤ 1 := by
  simp [AsmLine.wf, asmFifoOk, asmBitOk]

theorem wf_setctl_iff {c p e v x : Nat} :
    (AsmLine.setctl f c p e v x).wf = true ↔ f ≤ 255 ∧ c ≤ 1 ∧ p ≤ 3 ∧ e ≤ 1 ∧ v ≤ 1 ∧ x ≤ 1 := by
  simp [AsmLine.wf, asmFifoOk, asmBitOk, and_assoc]

end

theorem wf_setlimit_iff {n : Nat} : (AsmLine.setlimit n).wf = true ↔ n ≤ 65535 := decide_eq_true_iff

theorem wf_hr_iff {o : Nat} : (AsmLine.hr o).wf = true ↔ o ≤ 2 ^ 32 - 1 := decide_eq_true_iff

theorem wf_hw_iff {o v : Nat} : (AsmLine.hw o v).wf = true ↔ o ≤ 2 ^ 32 - 1 ∧ v ≤ 2 ^ 32 - 1 := by
  simp [AsmLine.wf]

/-! ### A line assembled or refused -/

theorem AsmLine.assemble_of_wf {l : AsmLine} (slots : Nat) (h : l.wf = true) : l.assemble slots = some (l.ops slots) := if_pos h

theorem AsmLine.assemble_eq_none_iff {l : AsmLine} {slots : Nat} : l.assemble slots = none ↔ ¬ l.wf = true := by
  simp [AsmLine.assemble]

/-- `clear f, n`: n to HARG, then the command (R98, R99). -/
theorem assemble_clear (slots : Nat) {f : Nat} (hf : f ≤ 255) {n : Int} (hlow : -(2 ^ 31) ≤ n) (hhigh : n ≤ 2 ^ 31 - 1) :
    (AsmLine.clear f n).assemble slots
      = some [.hifWrite 4 0x04 (BitVec.ofInt 32 n), .hifWrite 4 0x00 (encode (asmClear f)), .waitIdle] :=
  AsmLine.assemble_of_wf slots (wf_clear_iff.2 ⟨hf, hlow, hhigh⟩)

/-- `init f, e`: e to HARG, then the command (R98, R99). -/
theorem assemble_init (slots : Nat) {f : Nat} (hf : f ≤ 255) {e : Nat} (he : e ≤ 2 ^ 32 - 1) :
    (AsmLine.init f e).assemble slots
      = some [.hifWrite 4 0x04 (BitVec.ofNat 32 e), .hifWrite 4 0x00 (encode (asmInit f)), .waitIdle] :=
  AsmLine.assemble_of_wf slots (wf_init_iff.2 ⟨hf, he⟩)

/-- Settles O60: a line in range assembles to its operations, which are those R99 lists for its mnemonic. -/
theorem commandHostSequences : Obligations.CommandHostSequences := fun slots _ hf =>
  ⟨fun _ => assemble_clear slots hf, fun _ => assemble_init slots hf,
    fun _ hen => AsmLine.assemble_of_wf slots (wf_setvalid_iff.2 ⟨hf, hen⟩),
    fun _ _ _ _ _ hc hp he hv hx => AsmLine.assemble_of_wf slots (wf_setctl_iff.2 ⟨hf, hc, hp, he, hv, hx⟩),
    fun _ _ ho hv => ⟨AsmLine.assemble_of_wf slots (wf_hw_iff.2 ⟨ho, hv⟩), AsmLine.assemble_of_wf slots (wf_hr_iff.2 ho)⟩,
    AsmLine.assemble_of_wf slots rfl⟩

/-- Settles O6: each expansion is the core line's own operations; `clearall` writes SLOT_COUNT as a number that is not negative. -/
theorem pseudoInstructionsExpand : Obligations.PseudoInstructionsExpand := by
  intro slots f
  refine ⟨?_, fun _ _ _ _ => rfl, rfl, rfl, rfl, fun _ => rfl, fun n => ?_, rfl⟩
  · rw [AsmLine.ops, AsmLine.ops, BitVec.ofInt_natCast]
  · rw [AsmLine.assemble_eq_none_iff, wf_setlimit_iff, Nat.not_le]

/-! ### The encoder on numbers in range -/

/-- A number that fits its field is read back as it was written. -/
theorem toNat_ofNat_of_lt {n k : Nat} (h : k < 2 ^ n) : (BitVec.ofNat n k).toNat = k := by
  rw [BitVec.toNat_ofNat, Nat.mod_eq_of_lt h]

/-- The common part of the four formulas: the opcode, and the FIFO index at bit 4 (R98). -/
theorem encodeHead_ofNat (opc : BitVec 4) {f : Nat} (hf : f ≤ 255) :
    encodeHead opc (BitVec.ofNat 8 f) = opc.setWidth 32 ||| BitVec.ofNat 32 f <<< 4 := by
  rw [encodeHead, BitVec.setWidth_ofNat_of_le_of_lt (by decide) (by omega)]

/-- A command word whose reserved bits are 0 is what stands below them (R98). -/
theorem or_setWidth_zero_shiftLeft (w : Word) (n p : Nat) : w ||| (0 : BitVec n).setWidth 32 <<< p = w := by simp

/-- `n mod 2^32`, what `clear` writes to HARG (R98). -/
theorem toNat_ofInt_word (n : Int) : ((BitVec.ofInt 32 n).toNat : Int) = n % 2 ^ 32 := by
  rw [BitVec.toNat_ofInt]
  omega

/-- A 32-bit number in HARG is that number. -/
theorem toNat_ofNat_word {e : Nat} (he : e ≤ 2 ^ 32 - 1) : (BitVec.ofNat 32 e).toNat = e := toNat_ofNat_of_lt (by omega)

/-- Settles O3: each field stands in the word as the number written, the reserved bits are 0, and HARG goes first. -/
theorem encoderFormulas : Obligations.EncoderFormulas := by
  intro f hf
  refine ⟨?_, ?_, fun en hen => ?_, fun c p e v x hc hp he hv hx => ?_, fun slots n hlow hhigh => ?_, fun slots e he => ?_⟩
  · rw [asmClear, encode, encodeHead_ofNat _ hf, or_setWidth_zero_shiftLeft]
    rfl
  · rw [asmInit, encode, encodeHead_ofNat _ hf, or_setWidth_zero_shiftLeft]
    rfl
  · rw [asmSetvalid, encode, encodeHead_ofNat _ hf, or_setWidth_zero_shiftLeft,
      BitVec.setWidth_ofNat_of_le_of_lt (by decide) (by omega)]
    rfl
  · rw [asmSetctl, encode, encodeHead_ofNat _ hf, or_setWidth_zero_shiftLeft]
    simp (disch := omega) only [BitVec.setWidth_ofNat_of_le_of_lt]
    rfl
  · exact ⟨assemble_clear slots hf hlow hhigh, toNat_ofInt_word n⟩
  · exact ⟨assemble_init slots hf he, toNat_ofNat_word he⟩

/-! ### Operands read back -/

/-- `EF_MASK_v` keeps the low EF_WIDTH_v bits of INIT_FIFO's operand (R94). -/
theorem toNat_and_mask (w : Word) {n : Nat} (hn : n ≤ 32) : (w &&& mask n).toNat = w.toNat % 2 ^ n := by
  have hpow := Nat.pow_le_pow_right (n := 2) (by decide) hn
  rw [BitVec.toNat_and, mask, toNat_ofNat_of_lt (by omega), Nat.and_two_pow_sub_one_eq_mod]

/-- `clear`'s n, read from HARG as a signed count (R94). -/
theorem clearCount_ofInt {n : Int} (hlow : -(2 ^ 31) ≤ n) (hhigh : n ≤ 2 ^ 31 - 1) : clearCount (BitVec.ofInt 32 n) = n :=
  BitVec.toInt_ofInt_eq_self (by decide) hlow (by omega)

/-- Settles O5: a line is refused when it is not well-formed, the decoder gives back the command encoded, and each of its fields is wide
enough for its range. -/
theorem assemblerChecksAndKeepsOperands : Obligations.AssemblerChecksAndKeepsOperands := by
  have hfifo {f : Nat} (hf : f ≤ 255) : (BitVec.ofNat 8 f).toNat = f := toNat_ofNat_of_lt (by omega)
  have hbit {b : Nat} (hb : b ≤ 1) : (BitVec.ofNat 1 b).toNat = b := toNat_ofNat_of_lt (by omega)
  have hprio {p : Nat} (hp : p ≤ 3) : (BitVec.ofNat 2 p).toNat = p := toNat_ofNat_of_lt (by omega)
  refine ⟨fun slots f => ⟨?_, ?_, ?_, ?_⟩, fun f hf => ?_, fun f n hf hn => ?_, fun f c p e v x hf hc hp he hv hx => ?_,
    fun n => clearCount_ofInt, fun e he => ⟨toNat_ofNat_word he, fun c hwf => ?_⟩⟩
  · exact fun _ => AsmLine.assemble_eq_none_iff.trans (not_congr wf_clear_iff)
  · exact fun _ => AsmLine.assemble_eq_none_iff.trans (not_congr wf_init_iff)
  · exact fun _ => AsmLine.assemble_eq_none_iff.trans (not_congr wf_setvalid_iff)
  · exact fun _ _ _ _ _ => AsmLine.assemble_eq_none_iff.trans (not_congr wf_setctl_iff)
  · exact ⟨_, decode_encode (asmClear f), decode_encode (asmInit f), hfifo hf⟩
  · exact ⟨_, _, decode_encode (asmSetvalid f n), hfifo hf, hbit hn⟩
  · exact ⟨_, _, _, _, _, _, decode_encode (asmSetctl f c p e v x), hfifo hf, hbit hc, hprio hp, hbit he, hbit hv, hbit hx⟩
  · have hwidth : c.efWidth ≤ 32 := le_of_add_le_right (Config.ef_of_wf hwf).2
    rw [Config.efv, Config.efMask, toNat_and_mask _ hwidth, toNat_ofNat_word he]

end Sys2Proof

namespace Sys2Proof.Machine

/-! ### `waitidle` -/

/-- The Host's turn with an operation at the head of its program is that operation's step. -/
theorem hostTurn_of_cons {s : State} {op : HostOp} {rest : List HostOp} (h : s.hostProg = op :: rest) :
    hostTurn s = hostStep { s with hostProg := rest } op := by
  simp [hostTurn, h]

/-- `waitidle` while a command runs: it stays at the head of the program. -/
theorem hostStep_waitIdle_busy {s : State} (h : s.busy = true) :
    hostStep s .waitIdle = .next { s.hifRead 0x08 with hostProg := .waitIdle :: s.hostProg } := if_pos h

/-- `waitidle` when no command runs: it is done. -/
theorem hostStep_waitIdle_idle {s : State} (h : s.busy = false) : hostStep s .waitIdle = .next (s.hifRead 0x08) :=
  if_neg (by simp [h])

/-- Settles O42: BUSY, which says whether a command runs, decides whether `waitidle` is put back. -/
theorem waitIdleRepeats : Obligations.WaitIdleRepeats := by
  intro s rest hprog
  rw [hostTurn_of_cons hprog]
  constructor
  · intro hrun
    have hbusy : State.busy { s with hostProg := rest } = true := (State.busy_iff s).2 hrun
    refine ⟨_, hostStep_waitIdle_busy hbusy, hprog.symm, ?_⟩
    cases s
    cases hprog
    rfl
  · intro hidle
    have hfree : State.busy { s with hostProg := rest } = false := (State.not_busy_iff s).2 hidle
    exact hostStep_waitIdle_idle hfree

end Sys2Proof.Machine
end

section
/-! PROOFS. The offsets of 40_bus_primitives R110 and R111: linear modulo 2^32, exact for the words of a FIFO, and where a slot past
the last one leads in the reference configuration (R117). -/

namespace Sys2Proof

/-- Settles O7: R110 as a number, and without the modulus inside the control region (R10). -/
theorem controlOffsetIsLinear : Obligations.ControlOffsetIsLinear := fun c f =>
  ⟨c.ctrlOff_toNat f, fun h hf => Config.ctrlOff_toNat_of_wf h hf⟩

/-- Settles O8: R111 as a number, without the modulus inside the working region, and R117's three slots past the last one: the next
FIFO's first slot, the platform word after the last FIFO's slots, and an offset below WORK_BASE. -/
theorem workOffsetIsLinear : Obligations.WorkOffsetIsLinear := fun c f s =>
  ⟨c.workOff_toNat f s, fun h hf hs => Config.workOff_toNat_of_wf h hf hs, by decide, ⟨by decide, by decide⟩, by decide⟩

end Sys2Proof
end

section
/-! PROOFS. A running command makes progress: each of its steps exists and lowers the bound of 70_reset_and_hazards R252 (40_bus_primitives
R113), no step of another agent touches it (R112, R244, R245), so left to run it reaches Done. -/

namespace Sys2Proof.Machine

/-! ### The bound in each phase -/

section
variable {s t : State} {i : Instr}

theorem State.remaining_of_clr (hclr : s.phase = .clr) (hword : decode s.lCmd = .ok i) :
    s.remaining = clearLeft s.slot + afterClear i := by
  simp [State.remaining, hclr, hword]

theorem State.remaining_of_poll (hpoll : s.phase = .poll) :
    s.remaining = (s.lLim.toNat + 1 - s.polls.toNat) + s.cfg.slotCount + 2 := by
  simp [State.remaining, hpoll]

/-- A clear takes a step even when it has no slot to write (41_clear_init R121). -/
theorem clearLeft_pos (x : Word) : 0 < clearLeft x := by
  unfold clearLeft
  split_ifs <;> omega

/-- A clear that goes on has one slot less to write. -/
theorem clearLeft_sub_one_lt {x : Word} (hx : 0 ≤ x.toInt) (hpred : 0 ≤ (x - 1).toInt) : clearLeft (x - 1) < clearLeft x := by
  have hsub := toInt_sub_one hx
  simp only [clearLeft, if_neg (not_lt.2 hx), if_neg (not_lt.2 hpred)]
  omega

/-- A clear of the whole working memory takes at most one step per slot. -/
theorem clearLeft_lastSlot_le {c : Sys2Proof.Config} (h : c.wf = true) : clearLeft c.lastSlot ≤ c.slotCount := by
  obtain ⟨hpos, hlt⟩ := lastSlot_inRange h
  rw [clearLeft, if_neg (not_lt.2 hpos)]
  omega

/-! ### Each step lowers the bound -/

/-- Past its clear a command has its own last phases left (R121). -/
theorem State.remaining_continueAt (s : State) (i : Instr) : (s.continueAt i.continuation).remaining = afterClear i := by
  cases i <;> rfl

/-- A clear step ends the clear or goes down one slot (R121). -/
theorem clearStep_remaining_lt (hword : decode s.lCmd = .ok i) (hclr : s.phase = .clr) (f : BitVec 8) :
    (s.clearStep i.continuation f).remaining < s.remaining := by
  have hpos := clearLeft_pos s.slot
  rw [State.remaining_of_clr hclr hword]
  obtain ⟨-, he⟩ | ⟨-, -, he⟩ | ⟨hslot, hpred, he⟩ := s.clearStep_cases i.continuation f <;> rw [he]
  · rw [State.remaining_continueAt]
    omega
  · rw [State.remaining_continueAt]
    omega
  · have hless := clearLeft_sub_one_lt hslot hpred
    rw [State.remaining_of_clr (s := s.clearSlot f) (by simpa using hclr) (by simpa using hword), State.clearSlot_slot]
    omega

section
variable {f : BitVec 8} {c : BitVec 1} {p : BitVec 2} {e v x : BitVec 1} {r : BitVec 14}

/-- After Phase 1 come at most a full clear, COMMIT and FLUSH (43_set_control R154). -/
theorem selectPath_remaining_le (hwf : s.cfg.wf = true) (hword : decode s.lCmd = .ok (.setctl f c p e v x r)) :
    (s.selectPath v).remaining ≤ s.cfg.slotCount + 2 := by
  obtain ⟨-, he⟩ | ⟨-, he⟩ := s.selectPath_cases v <;> rw [he]
  · exact le_of_eq_of_le (State.remaining_of_clr rfl hword) (Nat.add_le_add_right (clearLeft_lastSlot_le hwf) 2)
  · exact Nat.le_add_left 2 _

/-- The count of one more read does not wrap while the ceiling allows it (10_state R33). -/
theorem toNat_polls_add_one (h : s.polls.toNat ≤ s.lLim.toNat) : (s.polls + 1).toNat = s.polls.toNat + 1 := by
  have hlim := s.lLim.isLt
  exact BitVec.toNat_add_of_lt (show s.polls.toNat + 1 < 2 ^ 17 by omega)

/-- A POLL step ends Phase 1, or uses up one of the reads the ceiling allows (R152). -/
theorem pollStep_remaining_lt (hwf : s.cfg.wf = true) (hrun : s.Running (.setctl f c p e v x r)) (hpoll : s.phase = .poll) :
    (s.pollStep f v).remaining < s.remaining := by
  have hpolls := hrun.polls hpoll
  have hsucc := toNat_polls_add_one hpolls
  rw [State.remaining_of_poll hpoll]
  have hpast : s.cfg.slotCount + 2 < (s.lLim.toNat + 1 - s.polls.toNat) + s.cfg.slotCount + 2 := by omega
  obtain ⟨-, he⟩ | ⟨-, -, he⟩ | ⟨-, -, he⟩ := s.pollStep_cases f v <;> rw [he]
  · exact lt_of_le_of_lt (selectPath_remaining_le hwf hrun.word) hpast
  · exact lt_of_le_of_lt (selectPath_remaining_le hwf hrun.word) hpast
  · change (s.lLim.toNat + 1 - (s.polls + 1).toNat) + s.cfg.slotCount + 2 < _
    omega

end

/-- Every step of a running command lowers the bound: the clear's and POLL's by their lemmas, each other by its place in the
sequence (10_state R35). -/
theorem exec_running_remaining_lt (hwf : s.cfg.wf = true) (hrun : s.Running i) (hexec : exec i s = .next t) :
    t.remaining < s.remaining := by
  cases i with
  | clear f r =>
    obtain ⟨hp, -⟩ | ⟨hp, rfl⟩ := execClear_next hexec
    · exact absurd hp hrun.ne_idle
    · exact clearStep_remaining_lt hrun.word hp f
  | init f r =>
    obtain ⟨hp, -⟩ | ⟨hp, rfl⟩ | ⟨hp, rfl⟩ := execInit_next hexec
    · exact absurd hp hrun.ne_idle
    · exact clearStep_remaining_lt hrun.word hp f
    · simp [State.initwStep, State.remaining, hp]
  | setvalid f en r =>
    obtain ⟨hp, -⟩ | ⟨hp, rfl⟩ | ⟨hp, rfl⟩ := execSetvalid_next hexec
    · exact absurd hp hrun.ne_idle
    · simp [State.svrdStep, State.remaining, hp]
    · simp [State.svwrStep, State.remaining, hp]
  | setctl f c p e v x r =>
    obtain ⟨hp, -⟩ | ⟨hp, rfl⟩ | ⟨hp, rfl⟩ | ⟨hp, rfl⟩ | ⟨hp, rfl⟩ := execSetctl_next hexec
    · exact absurd hp hrun.ne_idle
    · exact pollStep_remaining_lt hwf hrun hp
    · exact clearStep_remaining_lt hrun.word hp f
    · simp [State.commitStep, State.remaining, hp]
    · simp [State.flushStep, State.remaining, hp]

/-! ### The controller never blocks -/

/-- In each phase of its own a command has a next step. -/
theorem exists_exec_of_owns (h : i.owns s.phase = true) : ∃ t, exec i s = .next t := by
  cases i with
  | clear f r =>
    have hp : s.phase = .clr := by simpa [Instr.owns] using h
    simp [exec, execClear, hp]
  | init f r =>
    obtain hp | hp : s.phase = .clr ∨ s.phase = .initw := by simpa [Instr.owns] using h
    all_goals simp [exec, execInit, hp]
  | setvalid f en r =>
    obtain hp | hp : s.phase = .svrd ∨ s.phase = .svwr := by simpa [Instr.owns] using h
    all_goals simp [exec, execSetvalid, hp]
  | setctl f c p e v x r =>
    obtain ((hp | hp) | hp) | hp : ((s.phase = .poll ∨ s.phase = .clr) ∨ s.phase = .commit) ∨ s.phase = .flush := by
      simpa [Instr.owns] using h
    all_goals simp [exec, execSetctl, hp]

theorem State.Running.popTurn (h : s.Running i) : s.popTurn.Running i :=
  ⟨h.word, h.fifo, h.phase, h.slot, h.polls, h.phase1⟩

end

/-- Settles O34: by the invariant the running command is in a phase of its own, so it has a step, and that step lowers the bound. -/
theorem controllerNeverBlocks : Obligations.ControllerNeverBlocks := by
  intro s hinv hwf hrun hturn
  obtain hidle | ⟨i, hi⟩ := hinv.command
  · exact absurd hidle hrun
  obtain ⟨t, hexec⟩ := exists_exec_of_owns (s := s.popTurn) hi.phase
  exact ⟨t, (stepRunsRunningCommand s i hwf hturn hrun hi.word).trans hexec,
    exec_running_remaining_lt (s := s.popTurn) hwf hi.popTurn hexec⟩

/-! ### The other agents -/

/-- While a command runs, a step that is neither the Controller's nor a reset changes no register of the controller: an acceptance
needs an idle block (44_host_access R183). -/
theorem State.Moves.frame_of_other {s t : State} (h : s.Moves t) (hrun : s.phase ≠ .idle) (hctrl : s.nextTurn ≠ .controller)
    (hreset : s.nextTurn ≠ .reset) :
    t = { s with harg := t.harg, timeout := t.timeout, errBusy := t.errBusy, errOpc := t.errOpc, errFifo := t.errFifo,
                 limit := t.limit, rs := t.rs, hist := t.hist, draws := t.draws, hostProg := t.hostProg, sched := t.sched } := by
  cases h with
  | environment _ _ _ => rfl
  | reset hturn => exact absurd hturn hreset
  | acknowledge _ _ => rfl
  | @rejected _ _ k _ _ _ => cases k <;> rfl
  | accepted _ _ hi hexec => exact absurd (accepted_begin hi hexec).1 hrun
  | command hturn _ _ _ => exact absurd hturn hctrl

/-- Settles O35: what such a step may change is no register of the controller, and the bound is read off those and the
configuration. -/
theorem othersLeaveTheCommandAlone : Obligations.OthersLeaveTheCommandAlone := by
  intro s t hrun hturn h
  have hctrl : s.nextTurn ≠ .controller := by
    obtain hturn | ⟨d, hturn⟩ := hturn <;> simp [hturn]
  have hreset : s.nextTurn ≠ .reset := by
    obtain hturn | ⟨d, hturn⟩ := hturn <;> simp [hturn]
  rw [(moves_of_step h).frame_of_other hrun hctrl hreset]
  exact ⟨rfl, rfl, rfl, rfl, rfl, rfl, rfl, rfl, rfl, rfl, rfl⟩

/-! ### Left to run -/

section
variable {s t : State} {i : Instr}

theorem State.finish_getLast (s : State) : s.finish.hist.getLast? = some (.done s.lCmd) := by simp

/-- A clear step that leaves the block idle is CLEAR_WD's last (R114, R121). -/
theorem clearStep_idle_getLast (hclr : s.phase = .clr) (k : Continuation) (f : BitVec 8)
    (hidle : (s.clearStep k f).phase = .idle) : (s.clearStep k f).hist.getLast? = some (.done s.lCmd) := by
  obtain ⟨-, he⟩ | ⟨-, -, he⟩ | ⟨-, -, he⟩ := s.clearStep_cases k f <;> rw [he] at hidle ⊢
  · cases k with
    | done => exact s.finish_getLast
    | initw | commit => cases hidle
  · cases k with
    | done => exact (s.clearSlot f).finish_getLast.trans (by rw [State.clearSlot_lCmd])
    | initw | commit => cases hidle
  · rw [State.clearSlot_phase, hclr] at hidle
    cases hidle

theorem selectPath_phase_ne_idle (s : State) (v : BitVec 1) : (s.selectPath v).phase ≠ .idle := by
  obtain ⟨-, he⟩ | ⟨-, he⟩ := s.selectPath_cases v <;> simp [he]

/-- SET_CONTROL does not end in POLL (43_set_control R152). -/
theorem pollStep_phase_ne_idle (s : State) (f : BitVec 8) (v : BitVec 1) : (s.pollStep f v).phase ≠ .idle := by
  obtain ⟨-, he⟩ | ⟨-, -, he⟩ | ⟨-, -, he⟩ := s.pollStep_cases f v <;> rw [he]
  · exact selectPath_phase_ne_idle _ v
  · exact selectPath_phase_ne_idle _ v
  · simp

/-- A step of a running command that leaves the block idle ends with the command's Done (R114). -/
theorem exec_running_idle_getLast (hrun : s.phase ≠ .idle) (hexec : exec i s = .next t) (hidle : t.phase = .idle) :
    t.hist.getLast? = some (.done s.lCmd) := by
  cases i with
  | clear f r =>
    obtain ⟨hp, -⟩ | ⟨hp, rfl⟩ := execClear_next hexec
    · exact absurd hp hrun
    · exact clearStep_idle_getLast hp _ f hidle
  | init f r =>
    obtain ⟨hp, -⟩ | ⟨hp, rfl⟩ | ⟨-, rfl⟩ := execInit_next hexec
    · exact absurd hp hrun
    · exact clearStep_idle_getLast hp _ f hidle
    · simp [State.initwStep]
  | setvalid f en r =>
    obtain ⟨hp, -⟩ | ⟨-, rfl⟩ | ⟨-, rfl⟩ := execSetvalid_next hexec
    · exact absurd hp hrun
    · cases hidle
    · simp [State.svwrStep]
  | setctl f c p e v x r =>
    obtain ⟨hp, -⟩ | ⟨-, rfl⟩ | ⟨hp, rfl⟩ | ⟨-, rfl⟩ | ⟨-, rfl⟩ := execSetctl_next hexec
    · exact absurd hp hrun
    · exact absurd hidle (pollStep_phase_ne_idle s f v)
    · exact clearStep_idle_getLast hp _ f hidle
    · cases hidle
    · simp [State.flushStep]

/-- What CommandCompletes asks of a state with nothing scheduled: a coherent running command and no other agent's turn ahead. -/
structure State.LeftToRun (s : State) : Prop where
  inv : s.Inv
  wf : s.cfg.wf = true
  ne_idle : s.phase ≠ .idle
  sched : s.sched = []

/-- One step of a command left to run: its bound falls and it keeps its word, then either it is done or it is still left to run. -/
theorem State.LeftToRun.exists_step (h : s.LeftToRun) :
    ∃ t, step s = .next t ∧ t.remaining < s.remaining ∧ t.lCmd = s.lCmd
      ∧ ((t.phase = .idle ∧ t.hist.getLast? = some (.done s.lCmd)) ∨ t.LeftToRun) := by
  have hturn : s.nextTurn = .controller := by
    simp [State.nextTurn, h.sched, State.defaultTurn, (State.busy_iff s).2 h.ne_idle]
  obtain ⟨t, hstep, hlt⟩ := controllerNeverBlocks s h.inv h.wf h.ne_idle hturn
  obtain hidle | ⟨i, hi⟩ := h.inv.command
  · exact absurd hidle h.ne_idle
  have hexec := (step_of_running h.wf h.sched h.ne_idle hi.word).symm.trans hstep
  obtain ⟨hcmd, hsched⟩ : t.lCmd = s.lCmd ∧ t.sched = s.sched := by
    obtain ⟨_, _, ⟨⟩⟩ := exec_running_works h.ne_idle hexec
    exact ⟨rfl, rfl⟩
  refine ⟨t, hstep, hlt, hcmd, ?_⟩
  by_cases hidle : t.phase = .idle
  · exact .inl ⟨hidle, exec_running_idle_getLast h.ne_idle hexec hidle⟩
  · exact .inr ⟨stepKeepsInvariant s t h.inv hstep, configurationNeverChanges s t hstep ▸ h.wf, hidle, hsched.trans h.sched⟩

/-- A command left to run reaches Done within its bound. -/
theorem State.LeftToRun.completes (h : s.LeftToRun) :
    ∃ k t, k ≤ s.remaining ∧ run k s = .next t ∧ t.phase = .idle ∧ t.lCmd = s.lCmd
      ∧ t.hist.getLast? = some (.done s.lCmd) := by
  induction hn : s.remaining using Nat.strong_induction_on generalizing s with
  | _ n ih =>
    subst hn
    obtain ⟨t, hstep, hlt, hcmd, ⟨hidle, hdone⟩ | ht⟩ := h.exists_step
    · exact ⟨1, t, by omega, run_succ 0 hstep, hidle, hcmd, hdone⟩
    · obtain ⟨k, u, hk, hrun, hidle, hcmd', hdone⟩ := ih t.remaining hlt ht rfl
      rw [hcmd] at hcmd' hdone
      exact ⟨k + 1, u, by omega, (run_succ k hstep).trans hrun, hidle, hcmd', hdone⟩

end

/-- Settles O36: each step lowers the bound and keeps the invariant, so by induction on the bound the command ends. -/
theorem commandCompletes : Obligations.CommandCompletes := fun _ hinv hwf hrun hsched =>
  State.LeftToRun.completes ⟨hinv, hwf, hrun, hsched⟩

end Sys2Proof.Machine
end

section
/-! PROOFS. The initial control word of INIT_FIFO, bit by bit (41_clear_init R123). -/

namespace Sys2Proof

/-- The enable field stands at `EF_POS_v`, `EF_WIDTH_v` bits wide (10_state R39). -/
theorem Config.getLsbD_efMask_shiftLeft (c : Config) {k : Nat} (hk : k < 32) :
    (c.efMask <<< c.efPos).getLsbD k = (decide (c.efPos ≤ k) && decide (k < c.efPos + c.efWidth)) := by
  by_cases hpos : c.efPos ≤ k
  · have hfield : k - c.efPos < c.efWidth ↔ k < c.efPos + c.efWidth := by omega
    simp [Config.efMask, getElem_mask, hk, hpos, hfield]
  · simp [hpos, show k < c.efPos by omega]

/-- A bit of the initial control word is the in-use marker's, or the operand's where the enable field stands. -/
theorem Config.getLsbD_initWord (c : Config) (e : Word) {k : Nat} (hk : k < 32) :
    (c.initWord e).getLsbD k = (c.inUseMask.getLsbD k || ((c.efMask <<< c.efPos).getLsbD k && e.getLsbD (k - c.efPos))) := by
  rw [Config.initWord, Config.efv, BitVec.shiftLeft_and_distrib, BitVec.getLsbD_or, BitVec.getLsbD_and, Bool.or_comm]
  by_cases hpos : k < c.efPos
  · simp [hpos]
  · rw [BitVec.getLsbD_shiftLeft]
    simp [hk, hpos, Bool.and_comm]

/-- `RO_BIT` lies outside the enable field, which is part of `SWF_v` (00_scope R8, 10_state R42). -/
theorem Config.getLsbD_efMask_roBit {c : Config} (h : c.wf = true) : (c.efMask <<< c.efPos).getLsbD c.roBit = false := by
  obtain ⟨-, -, ⟨-, hswf⟩, -⟩ := Config.fields_of_wf h
  rw [Config.swf, BitVec.getLsbD_or, BitVec.getLsbD_or, BitVec.getLsbD_or] at hswf
  simp only [Bool.or_eq_false_iff] at hswf
  obtain ⟨⟨⟨-, hfield⟩, -⟩, -⟩ := hswf
  exact hfield

/-- Settles O11: each bit is the in-use marker's or the enable field's. `RO_BIT` is in neither, and bit 4 is in neither where the enable
field begins at bit 11. -/
theorem initWordBits : Obligations.InitWordBits := by
  intro c e h
  obtain ⟨-, -, ⟨hro, -⟩, ⟨-, hvalid, hmarker⟩, -⟩ := Config.fields_of_wf h
  refine ⟨fun k hk => ?_, ?_, fun ha => ?_⟩
  · rw [c.getLsbD_initWord e hk, c.getLsbD_efMask_shiftLeft hk]
  · rw [Config.readOnly, c.getLsbD_initWord e hro, hmarker, Config.getLsbD_efMask_roBit h]
    rfl
  · have hpos : c.efPos = 11 := by simp [Config.efPos, ha]
    rw [validBit, c.getLsbD_initWord e (by decide), c.getLsbD_efMask_shiftLeft (by decide), hvalid, hpos]
    rfl

end Sys2Proof
end

section
/-! PROOFS. The steps of CLEAR_WD and INIT_FIFO one by one (41_clear_init R120, R121, R124, R125): acceptance, the clear step, the
INITW step. -/

namespace Sys2Proof.Machine

/-! ### Acceptance -/

/-- Settles O18: acceptance is `State.begin`, written out for each of the three commands. -/
theorem acceptClearInitSetvalid : Obligations.AcceptClearInitSetvalid := fun _ _ _ _ _ hidle _ =>
  ⟨exec_of_idle _ hidle, exec_of_idle _ hidle, exec_of_idle _ hidle⟩

/-! ### The clear step -/

/-- In phase CLR every command that clears takes the same step, its own continuation after it (41_clear_init R121). -/
theorem exec_of_clr {s : State} {i : Instr} (hclr : s.phase = .clr) (howns : i.owns .clr = true) :
    exec i s = .next (s.clearStep i.continuation i.fifo) := by
  cases i with
  | clear f r => simp [exec, execClear, hclr, Instr.continuation, Instr.fifo]
  | init f r => simp [exec, execInit, hclr, Instr.continuation, Instr.fifo]
  | setvalid f en r => cases howns
  | setctl f c p e v x r => simp [exec, execSetctl, hclr, Instr.continuation, Instr.fifo]

section
variable {s : State} (k : Continuation) (f : BitVec 8)

theorem State.clearStep_of_neg (h : s.slot.toInt < 0) : s.clearStep k f = s.continueAt k := if_pos h

/-- Slot 0 is the last one written. -/
theorem State.clearStep_of_zero (h : s.slot = 0) : s.clearStep k f = (s.clearSlot f).continueAt k := by
  simp [State.clearStep, h]

theorem State.clearStep_of_pos (h : 0 < s.slot.toInt) : s.clearStep k f = s.clearSlot f := by
  have hpred := toInt_sub_one h.le
  rw [State.clearStep, if_neg (by omega), if_neg (by omega)]

end

/-- Settles O20: the sign of SLOT selects the case of R121, and what goes on does so from the state after the write. -/
theorem clearStep : Obligations.ClearStep := by
  intro s f r c p e v x r' hclr
  rw [exec_of_clr (i := .clear f r) hclr rfl, exec_of_clr (i := .init f r) hclr rfl,
    exec_of_clr (i := .setctl f c p e v x r') hclr rfl]
  refine ⟨fun hneg => ?_, fun hzero => ?_, fun hpos => ?_⟩
  · simp only [State.clearStep_of_neg _ _ hneg]
    exact ⟨rfl, rfl, rfl⟩
  · have hslot : s.slot = 0 := BitVec.eq_of_toInt_eq hzero
    simp only [State.clearStep_of_zero _ _ hslot, State.clearSlot, hslot]
    exact ⟨by simp [Instr.continuation, Instr.fifo, State.continueAt, State.finish], rfl, rfl⟩
  · simp only [State.clearStep_of_pos _ _ hpos]
    exact ⟨rfl, rfl, rfl⟩

/-! ### The INITW step -/

theorem exec_init_of_initw {s : State} (f : BitVec 8) (r : BitVec 20) (h : s.phase = .initw) :
    exec (.init f r) s = .next (s.initwStep f) := by
  simp [exec, execInit, h]

/-- The command that ends with a write is the one that ran before it. -/
theorem State.finish_memWrite (s : State) (o v : Word) :
    (s.memWrite o v).finish = { s.memWrite o v with hist := (s.memWrite o v).hist ++ [.done s.lCmd], phase := .idle } := by
  simp [State.finish]

/-- A clear step records a write or nothing, then notes: it reads nothing. -/
theorem State.clearStep_hist (s : State) (k : Continuation) (f : BitVec 8) :
    ∃ l, (s.clearStep k f).hist = s.hist ++ l ∧ ∀ o w, Event.rd o w ∉ l := by
  obtain ⟨-, he⟩ | ⟨-, -, he⟩ | ⟨-, -, he⟩ := s.clearStep_cases k f <;> rw [he]
  · cases k with
    | done => exact ⟨[.done s.lCmd], rfl, by simp⟩
    | initw | commit => exact ⟨[], (List.append_nil _).symm, by simp⟩
  · cases k with
    | done => exact ⟨[.wr (s.cfg.workOff f.toNat s.slot) 0, .done s.lCmd], by simp [State.continueAt], by simp⟩
    | initw | commit => exact ⟨[.wr (s.cfg.workOff f.toNat s.slot) 0], s.clearSlot_hist f, by simp⟩
  · exact ⟨[.wr (s.cfg.workOff f.toNat s.slot) 0], s.clearSlot_hist f, by simp⟩

/-- Settles O21: the INITW step is the write and Done; what the acceptance, a clear step and the INITW step record holds no read. -/
theorem initwStep : Obligations.InitwStep := by
  intro s f r
  refine ⟨fun hp => ?_, fun t h => ?_⟩
  · exact (exec_init_of_initw f r hp).trans (congrArg _ (s.finish_memWrite _ _))
  · obtain ⟨-, rfl⟩ | ⟨-, rfl⟩ | ⟨-, rfl⟩ := execInit_next h
    · exact ⟨[.accept (encode (.init f r)) s.harg s.limit], rfl, by simp⟩
    · exact s.clearStep_hist _ f
    · exact ⟨[.wr (s.cfg.ctrlOff f.toNat) (s.cfg.initWord s.lArg), .done s.lCmd], by simp [State.initwStep], by simp⟩

end Sys2Proof.Machine
end

section
/-! PROOFS. What a step of a command leaves alone, registers and RS (41_clear_init R121, R125, 42_set_validity R140, 43_set_control R152,
R160, R161, 44_host_access R183): both frames are read off one list of what a step may change in each phase. -/

namespace Sys2Proof.Machine

/-- Everything a step of command i may change, by the phase it is taken in. -/
inductive State.Steps (s : State) (i : Instr) : State → Prop where
  /-- Acceptance (44_host_access R183). -/
  | accepts (hp : s.phase = .idle) : s.Steps i (s.begin i)
  /-- A clear with no slot to write (41_clear_init R121). -/
  | passes {phase : Phase} {hist : List Event} (hp : s.phase = .clr) (hslot : s.slot.toInt < 0) :
      s.Steps i { s with phase := phase, hist := hist }
  /-- A clear step that writes its slot (R121). -/
  | clears {phase : Phase} {slot : Word} {hist : List Event} (hp : s.phase = .clr) (hslot : 0 ≤ s.slot.toInt) :
      s.Steps i { s with
        phase := phase, slot := slot, hist := hist
        rs := (s.store (s.cfg.workOff i.fifo.toNat s.slot) 0).rs
        draws := (s.store (s.cfg.workOff i.fifo.toNat s.slot) 0).draws }
  /-- A write of the control register (R125, 42_set_validity R140, 43_set_control R160). -/
  | writes {phase : Phase} {v : Word} {hist : List Event} (hp : s.phase = .initw ∨ s.phase = .svwr ∨ s.phase = .commit) :
      s.Steps i { s with
        phase := phase, hist := hist
        rs := (s.store (s.cfg.ctrlOff i.fifo.toNat) v).rs
        draws := (s.store (s.cfg.ctrlOff i.fifo.toNat) v).draws }
  /-- The read of SVRD, kept in W (42_set_validity R140). -/
  | samples {phase : Phase} {w : Word} {hist : List Event} (hp : s.phase = .svrd) :
      s.Steps i { s with phase := phase, w := w, hist := hist }
  /-- A read of POLL, and what Phase 1 does with it (43_set_control R152, R154). -/
  | polls {timeout : Bool} {pollCount polls : BitVec 17} {phase : Phase} {w slot : Word} {path : Path} {hist : List Event}
      (hp : s.phase = .poll) :
      s.Steps i { s with
        timeout := timeout, pollCount := pollCount, phase := phase, w := w, polls := polls, slot := slot, path := path, hist := hist }
  /-- The read of FLUSH, discarded (R161). -/
  | flushes {phase : Phase} {hist : List Event} (hp : s.phase = .flush) : s.Steps i { s with phase := phase, hist := hist }

section
variable {s t : State} {i : Instr}

theorem State.clearStep_steps (hclr : s.phase = .clr) (k : Continuation) : s.Steps i (s.clearStep k i.fifo) := by
  obtain ⟨hneg, he⟩ | ⟨hpos, -, he⟩ | ⟨hpos, -, he⟩ := s.clearStep_cases k i.fifo <;> rw [he]
  · cases k <;> exact .passes hclr hneg
  · rw [State.clearSlot_eq]
    cases k <;> exact .clears hclr hpos
  · rw [State.clearSlot_eq]
    exact .clears hclr hpos

/-- A write of the control register, whatever phase follows it and whether it is the last. -/
theorem State.ctrlWrite_steps (hp : s.phase = .initw ∨ s.phase = .svwr ∨ s.phase = .commit) (v : Word) (phase : Phase)
    (hist : List Event) : s.Steps i { s.memWrite (s.cfg.ctrlOff i.fifo.toNat) v with phase := phase, hist := hist } := by
  rw [State.memWrite_eq]
  exact .writes hp

theorem State.pollStep_steps (hpoll : s.phase = .poll) (f : BitVec 8) (v : BitVec 1) : s.Steps i (s.pollStep f v) := by
  obtain ⟨-, he⟩ | ⟨-, -, he⟩ | ⟨-, -, he⟩ := s.pollStep_cases f v <;> rw [he]
  · obtain ⟨-, hs⟩ | ⟨-, hs⟩ := State.selectPath_cases (s.pollRead f).reportPolls v <;> rw [hs] <;> exact .polls hpoll
  · obtain ⟨-, hs⟩ | ⟨-, hs⟩ := State.selectPath_cases ((s.pollRead f).raiseTimeout f (s.fcr f.toNat)).reportPolls v <;>
      rw [hs] <;> exact .polls hpoll
  · exact .polls hpoll

/-- Each step a command has changes only what its phase's rule writes. -/
theorem steps_of_exec (h : exec i s = .next t) : s.Steps i t := by
  by_cases hidle : s.phase = .idle
  · cases (exec_of_idle i hidle).symm.trans h
    exact .accepts hidle
  cases i with
  | clear f r =>
    obtain ⟨hp, -⟩ | ⟨hp, rfl⟩ := execClear_next h
    · exact absurd hp hidle
    · exact State.clearStep_steps hp _
  | init f r =>
    obtain ⟨hp, -⟩ | ⟨hp, rfl⟩ | ⟨hp, rfl⟩ := execInit_next h
    · exact absurd hp hidle
    · exact State.clearStep_steps hp _
    · exact State.ctrlWrite_steps (.inl hp) _ _ _
  | setvalid f en r =>
    obtain ⟨hp, -⟩ | ⟨hp, rfl⟩ | ⟨hp, rfl⟩ := execSetvalid_next h
    · exact absurd hp hidle
    · exact .samples hp
    · exact State.ctrlWrite_steps (.inr (.inl hp)) _ _ _
  | setctl f c p e v x r =>
    obtain ⟨hp, -⟩ | ⟨hp, rfl⟩ | ⟨hp, rfl⟩ | ⟨hp, rfl⟩ | ⟨hp, rfl⟩ := execSetctl_next h
    · exact absurd hp hidle
    · exact State.pollStep_steps hp f v
    · exact State.clearStep_steps hp _
    · exact State.ctrlWrite_steps (.inr (.inr hp)) _ _ _
    · exact .flushes hp

end

/-- Settles O26: no step writes the Host's registers or the error bits, and each other register is written in the phases named only. -/
theorem commandRegisterFrame : Obligations.CommandRegisterFrame := by
  intro i s t h
  cases steps_of_exec h with
  | accepts hp => simp [State.begin, hp]
  | writes hp => obtain hp | hp | hp := hp <;> simp [hp]
  | passes hp | clears hp | samples hp | polls hp | flushes hp => simp [hp]

/-- Settles O27: of the phases only CLR with a slot to write, INITW, SVWR and COMMIT store, each one word. -/
theorem commandMemoryFrame : Obligations.CommandMemoryFrame := by
  intro i s t h
  cases steps_of_exec h with
  | clears hp hslot => simpa [hp, hslot] using fun a => s.readByte_store (a := a) (s.cfg.workOff i.fifo.toNat s.slot) 0
  | @writes _ v _ hp =>
    obtain hp | hp | hp := hp <;> simpa [hp] using fun a => s.readByte_store (a := a) (s.cfg.ctrlOff i.fifo.toNat) v
  | accepts hp | samples hp | polls hp | flushes hp => simp [hp, State.begin]
  | passes hp hslot => simp [hp]

end Sys2Proof.Machine
end

section
/-! PROOFS. CLEAR_WD and INIT_FIFO to their ends, no other agent between (41_clear_init R120 to R125, 70_reset_and_hazards R250): a run of
clear steps is the slots' writes one after the other, and what those leave in RS is found by induction on the slots. -/

namespace Sys2Proof.Machine

/-! ### Writes of the block's own words -/

section
variable {s : State} {f : Nat}

/-- A working word is no control register, so no write of one is lost (20_memory R63). -/
theorem State.busyAt_workOff (hwf : s.cfg.wf = true) (hf : f < s.cfg.numFifos) {k : Nat} (hk : k < s.cfg.slotCount) :
    s.busyAt (s.cfg.workOff f (BitVec.ofNat 32 k)) = false := by
  rw [State.busyAt, (Config.isCtrl_eq_false_iff _ _).2 fun g hg => (Config.ctrlOff_ne_workOff hwf hg hf hk).symm, Bool.false_and]

/-- Of the control registers a write is lost on those whose `read_only` is 1. -/
theorem State.busyAt_ctrlOff (hf : f < s.cfg.numFifos) : s.busyAt (s.cfg.ctrlOff f) = s.cfg.readOnly (s.fcr f) := by
  rw [State.busyAt, (Config.isCtrl_iff _ _).2 ⟨f, hf, rfl⟩, Bool.true_and]
  rfl

end

section
variable {s : State} {o v : Word}

/-- A write that is not lost is read back (R62, R63). -/
theorem State.rsWord_memWrite_same (h : s.busyAt o = false) : (s.memWrite o v).rsWord o = v := by
  rw [State.rsWord, State.memWrite_rs, State.store_free h, Memory.readWord_writeWord_same]

theorem State.memWrite_draws_of_free (h : s.busyAt o = false) : (s.memWrite o v).draws = s.draws := by
  rw [State.memWrite_draws, State.store_free h]

/-- A write leaves every other aligned word alone. -/
theorem State.rsWord_memWrite_other {p : Word} (ho : 4 ∣ o.toNat) (hp : 4 ∣ p.toNat) (h : o ≠ p) :
    (s.memWrite o v).rsWord p = s.rsWord p := by
  rw [State.rsWord, State.memWrite_rs]
  exact s.readWord_store o v (word_ne_of_aligned (Nat.mod_eq_zero_of_dvd ho) (Nat.mod_eq_zero_of_dvd hp) h)

end

/-! ### A clear of n slots -/

/-- The state after n clear steps that each write a slot, before the clear goes on (41_clear_init R121). -/
def State.clearSlots (s : State) (f : BitVec 8) : Nat → State
  | 0 => s
  | n + 1 => (s.clearSlot f).clearSlots f n

/-- One below slot n + 1 is slot n. -/
theorem ofNat_succ_sub_one (n : Nat) : BitVec.ofNat 32 (n + 1) - 1 = BitVec.ofNat 32 n := by
  rw [BitVec.ofNat_add]
  exact BitVec.add_sub_cancel _ _

/-- Before the first step of a clear of n slots SLOT names the last of them: slot n - 1, or -1 when there is none. -/
def State.AtSlot (s : State) (n : Nat) : Prop := s.slot = BitVec.ofNat 32 n - 1

theorem State.AtSlot.slot_eq {s : State} {n : Nat} (h : s.AtSlot (n + 1)) : s.slot = BitVec.ofNat 32 n := h.trans (ofNat_succ_sub_one n)

/-- After the write of slot n there are n slots left. -/
theorem State.AtSlot.clearSlot {s : State} {n : Nat} (h : s.AtSlot (n + 1)) (f : BitVec 8) : (s.clearSlot f).AtSlot n := by
  rw [State.AtSlot, State.clearSlot_slot, h.slot_eq]

/-- Everything a clear of n slots changes: its writes come in descending order (R122). -/
theorem State.clearSlots_eq {s : State} {n : Nat} (h : s.AtSlot n) (f : BitVec 8) :
    s.clearSlots f n
      = { s with
          slot := 0xFFFFFFFF, hist := s.hist ++ clearWrites s.cfg f.toNat n
          rs := (s.clearSlots f n).rs, draws := (s.clearSlots f n).draws } := by
  induction n generalizing s with
  | zero =>
    have hslot : s.slot = 0xFFFFFFFF := h
    rw [clearWrites, List.append_nil, ← hslot]
    rfl
  | succ n ih =>
    refine (ih (h.clearSlot f)).trans ?_
    simp [State.clearSlots, clearWrites, h.slot_eq]

@[simp] theorem State.clearSlots_cfg (s : State) (f : BitVec 8) (n : Nat) : (s.clearSlots f n).cfg = s.cfg := by
  induction n generalizing s with
  | zero => rfl
  | succ n ih => exact (ih _).trans (s.clearSlot_cfg f)

section
variable {s : State} {f : BitVec 8} {n : Nat}

/-- A clear of n slots leaves every aligned word alone but those slots. -/
theorem State.rsWord_clearSlots_other (hwf : s.cfg.wf = true) (h : s.AtSlot n) {o : Word} (ho : 4 ∣ o.toNat)
    (hother : ∀ k, k < n → s.cfg.workOff f.toNat (BitVec.ofNat 32 k) ≠ o) : (s.clearSlots f n).rsWord o = s.rsWord o := by
  induction n generalizing s with
  | zero => rfl
  | succ n ih =>
    have hrest : ((s.clearSlot f).clearSlots f n).rsWord o = (s.clearSlot f).rsWord o :=
      ih (by simpa using hwf) (h.clearSlot f) fun k hk => by simpa using hother k (by omega)
    rw [State.clearSlots, hrest]
    exact State.rsWord_memWrite_other (Config.four_dvd_workOff hwf _ _) ho (h.slot_eq ▸ hother n (by omega))

/-- After a clear of n slots those of the FIFO's own are 0: slot k by its own write, which the writes of lower slots leave alone. -/
theorem State.fwm_clearSlots (hwf : s.cfg.wf = true) (hf : f.toNat < s.cfg.numFifos) (h : s.AtSlot n) {k : Nat} (hk : k < n)
    (hcount : k < s.cfg.slotCount) : (s.clearSlots f n).fwm f.toNat k = 0 := by
  induction n generalizing s with
  | zero => omega
  | succ n ih =>
    by_cases hkn : k < n
    · exact ih (s := s.clearSlot f) (by simpa using hwf) (by simpa using hf) (h.clearSlot f) hkn (by simpa using hcount)
    · obtain rfl : k = n := by omega
      have hlower : ∀ j, j < k → s.cfg.workOff f.toNat (BitVec.ofNat 32 j) ≠ s.cfg.workOff f.toNat (BitVec.ofNat 32 k) :=
        fun j hj heq => hj.ne (Config.workOff_inj hwf hf hf (hj.trans hcount) hcount heq).2
      rw [State.fwm, State.clearSlots_cfg, State.clearSlots, State.rsWord_clearSlots_other (by simpa using hwf) (h.clearSlot f)
        (Config.four_dvd_workOff hwf _ _) (by simpa using hlower)]
      have hfree := State.busyAt_workOff hwf hf hcount
      rw [← h.slot_eq] at hfree ⊢
      exact State.rsWord_memWrite_same hfree

/-- A clear of the FIFO's own slots loses no write, so it takes no draw. -/
theorem State.draws_clearSlots (hwf : s.cfg.wf = true) (hf : f.toNat < s.cfg.numFifos) (h : s.AtSlot n) (hn : n ≤ s.cfg.slotCount) :
    (s.clearSlots f n).draws = s.draws := by
  induction n generalizing s with
  | zero => rfl
  | succ n ih =>
    have hrest : ((s.clearSlot f).clearSlots f n).draws = (s.clearSlot f).draws :=
      ih (by simpa using hwf) (by simpa using hf) (h.clearSlot f) (by simpa using Nat.le_of_succ_le hn)
    rw [State.clearSlots, hrest, State.clearSlot_draws]
    exact State.memWrite_draws_of_free (h.slot_eq ▸ State.busyAt_workOff hwf hf hn)

/-! ### The runs -/

/-- With nothing scheduled a command in phase CLR takes its clear step. -/
theorem step_of_clr {i : Instr} (hwf : s.cfg.wf = true) (hsched : s.sched = []) (hclr : s.phase = .clr)
    (hword : decode s.lCmd = .ok i) (howns : i.owns .clr = true) : step s = .next (s.clearStep i.continuation i.fifo) :=
  (step_of_running hwf hsched (by simp [hclr]) hword).trans (exec_of_clr hclr howns)

/-- A clear of n + 1 slots takes n + 1 steps, the last of which goes on (R121, R250). -/
theorem run_clear {i : Instr} (hwf : s.cfg.wf = true) (hsched : s.sched = []) (hclr : s.phase = .clr) (hword : decode s.lCmd = .ok i)
    (howns : i.owns .clr = true) (hn : n < 2 ^ 31) (h : s.AtSlot (n + 1)) :
    run (n + 1) s = .next ((s.clearSlots i.fifo (n + 1)).continueAt i.continuation) := by
  induction n generalizing s with
  | zero =>
    have hstep := step_of_clr hwf hsched hclr hword howns
    rw [State.clearStep_of_zero _ _ h.slot_eq] at hstep
    exact run_succ 0 hstep
  | succ n ih =>
    have hpos : 0 < s.slot.toInt := by
      have hnat : s.slot.toNat = n + 1 := by rw [h.slot_eq, toNat_ofNat_of_lt (by omega)]
      rw [BitVec.toInt_eq_toNat_of_lt (by omega), hnat]
      omega
    have hstep := step_of_clr hwf hsched hclr hword howns
    rw [State.clearStep_of_pos _ _ hpos] at hstep
    rw [run_succ (n + 1) hstep]
    exact ih (by simpa using hwf) (by simpa using hsched) (by simpa using hclr) (by simpa using hword) (by omega) (h.clearSlot _)

end

/-- The clear of a FIFO's own slots leaves its control register alone. -/
theorem State.fcr_clearSlots {s : State} {f : BitVec 8} {n : Nat} (hwf : s.cfg.wf = true) (hf : f.toNat < s.cfg.numFifos)
    (h : s.AtSlot n) (hn : n ≤ s.cfg.slotCount) : (s.clearSlots f n).fcr f.toNat = s.fcr f.toNat := by
  rw [State.fcr, State.clearSlots_cfg]
  exact State.rsWord_clearSlots_other hwf h (Config.four_dvd_ctrlOff hwf _) fun k hk =>
    (Config.ctrlOff_ne_workOff hwf hf hf (hk.trans_le hn)).symm

/-! ### The INITW step in a run -/

/-- Everything the INITW step changes. -/
theorem State.initwStep_eq (s : State) (f : BitVec 8) :
    s.initwStep f
      = { s with
          phase := .idle, hist := s.hist ++ [.wr (s.cfg.ctrlOff f.toNat) (s.cfg.initWord s.lArg), .done s.lCmd]
          rs := (s.initwStep f).rs, draws := (s.initwStep f).draws } := by
  simp [State.initwStep, State.finish, State.memWrite_eq]

section
variable {s : State} {f : BitVec 8} (hf : f.toNat < s.cfg.numFifos)
include hf

/-- The INITW step leaves the slots of its FIFO alone. -/
theorem State.fwm_initwStep (hwf : s.cfg.wf = true) {k : Nat} (hk : k < s.cfg.slotCount) :
    (s.initwStep f).fwm f.toNat k = s.fwm f.toNat k := by
  rw [State.fwm, State.initwStep, State.finish_cfg, State.memWrite_cfg]
  exact State.rsWord_memWrite_other (Config.four_dvd_ctrlOff hwf _) (Config.four_dvd_workOff hwf _ _)
    (Config.ctrlOff_ne_workOff hwf hf hf hk)

/-- The initial word lands on a register that is not busy (20_memory R63). -/
theorem State.fcr_initwStep (hfree : s.cfg.readOnly (s.fcr f.toNat) = false) :
    (s.initwStep f).fcr f.toNat = s.cfg.initWord s.lArg ∧ (s.initwStep f).draws = s.draws := by
  rw [← State.busyAt_ctrlOff hf] at hfree
  rw [State.fcr, State.initwStep, State.finish_cfg, State.memWrite_cfg]
  exact ⟨State.rsWord_memWrite_same hfree, State.memWrite_draws_of_free hfree⟩

end

section
variable {s : State} {f : BitVec 8} {n : Nat}

/-- After its clear INIT_FIFO takes one step more (R125, R250). -/
theorem run_init {r : BitVec 20} (hwf : s.cfg.wf = true) (hsched : s.sched = []) (hclr : s.phase = .clr)
    (hword : decode s.lCmd = .ok (.init f r)) (hn : n < 2 ^ 31) (h : s.AtSlot (n + 1)) :
    run (n + 2) s = .next (((s.clearSlots f (n + 1)).goto .initw).initwStep f) := by
  have hstep : step ((s.clearSlots f (n + 1)).goto .initw) = exec (.init f r) ((s.clearSlots f (n + 1)).goto .initw) := by
    refine step_of_running ?_ ?_ Phase.noConfusion ?_ <;> rw [State.clearSlots_eq h]
    · exact hwf
    · exact hsched
    · exact hword
  rw [run_add (n + 1) 1 (run_clear hwf hsched hclr hword rfl hn h)]
  exact run_succ 0 (hstep.trans (exec_init_of_initw f r rfl))

/-- Everything INIT_FIFO changes from its first clear step on. -/
theorem initwStep_clearSlots_eq (h : s.AtSlot n) (f : BitVec 8) :
    ((s.clearSlots f n).goto .initw).initwStep f
      = { s with
          phase := .idle, slot := 0xFFFFFFFF
          hist := s.hist ++ clearWrites s.cfg f.toNat n ++ [.wr (s.cfg.ctrlOff f.toNat) (s.cfg.initWord s.lArg), .done s.lCmd]
          rs := (((s.clearSlots f n).goto .initw).initwStep f).rs
          draws := (((s.clearSlots f n).goto .initw).initwStep f).draws } := by
  rw [State.clearSlots_eq h]
  exact State.initwStep_eq _ f

end

/-! ### The two statements -/

/-- Settles O28: the run is `State.clearSlots`, then Done. -/
theorem clearWdRun : Obligations.ClearWdRun := by
  intro s f r hwf hsched hclr hword
  refine ⟨fun hneg => ?_, fun n hn hslot => ?_⟩
  · have hstep := step_of_clr hwf hsched hclr hword rfl
    rw [State.clearStep_of_neg _ _ hneg] at hstep
    exact run_succ 0 hstep
  · have hat : s.AtSlot (n + 1) := hslot.trans (ofNat_succ_sub_one n).symm
    refine ⟨_, run_clear hwf hsched hclr hword rfl hn hat, congrArg State.finish (State.clearSlots_eq hat f), fun k hk hcount hf => ?_⟩
    exact State.fwm_clearSlots hwf hf hat (Nat.lt_succ_of_le hk) hcount

/-- Settles O29: the run is `State.clearSlots` of all the slots, then the INITW step. The clear leaves the control register as it was, and
the INITW step leaves the slots 0. -/
theorem initFifoRun : Obligations.InitFifoRun := by
  intro s f r hwf hsched hclr hword hf hslot
  obtain ⟨-, ⟨hpos, hmax⟩, -⟩ := Config.fields_of_wf hwf
  have hrun : run (s.cfg.slotCount + 1) s = .next (((s.clearSlots f s.cfg.slotCount).goto .initw).initwStep f) := by
    obtain ⟨n, hn⟩ := Nat.exists_eq_add_of_le' hpos
    rw [hn] at hslot ⊢
    exact run_init hwf hsched hclr hword (by omega) hslot
  have hcfg : ((s.clearSlots f s.cfg.slotCount).goto .initw).cfg = s.cfg := s.clearSlots_cfg f _
  refine ⟨_, hrun, initwStep_clearSlots_eq hslot f, fun k hk => ?_, fun hfree => ?_⟩
  · rw [State.fwm_initwStep (by rwa [hcfg]) (by rwa [hcfg]) (by rwa [hcfg])]
    exact State.fwm_clearSlots hwf hf hslot hk hk
  · have hfcr : ((s.clearSlots f s.cfg.slotCount).goto .initw).fcr f.toNat = s.fcr f.toNat :=
      State.fcr_clearSlots hwf hf hslot le_rfl
    obtain ⟨hinit, hdraws⟩ := State.fcr_initwStep (s := (s.clearSlots f s.cfg.slotCount).goto .initw) (f := f) (by rwa [hcfg])
      (by rw [hcfg, hfcr, hfree])
    refine ⟨hinit.trans ?_, hdraws.trans (State.draws_clearSlots hwf hf hslot le_rfl)⟩
    rw [hcfg, State.clearSlots_eq hslot]
    rfl

end Sys2Proof.Machine
end

section
/-! PROOFS. The word SET_VALIDITY writes, bit by bit (42_set_validity R141). -/

namespace Sys2Proof

/-- A one-bit field that stands at bit p sets no other bit of the word. -/
theorem getLsbD_oneBit_shiftLeft (x : BitVec 1) (p : Nat) {k : Nat} (hk : k < 32) :
    (x.setWidth 32 <<< p).getLsbD k = (decide (k = p) && x.getLsbD 0) := by
  obtain hlt | rfl | hgt := Nat.lt_trichotomy k p
  · simp [hlt, hlt.ne]
  · simp [hk]
  · simp [hgt.ne', BitVec.getLsbD_of_ge x (k - p) (by omega)]

/-- A bit of the written word is 1 in the in-use marker, else en at bit 4, else the sampled word's. -/
theorem Config.getLsbD_svWord (c : Config) (w : Word) (en : BitVec 1) {k : Nat} (hk : k < 32) :
    (c.svWord w en).getLsbD k = if c.inUseMask.getLsbD k then true else if k = 4 then en.getLsbD 0 else w.getLsbD k := by
  have hvalid : (0x00000010 : Word).getLsbD k = decide (k = 4) := by simpa using getLsbD_oneBit_shiftLeft 1 4 hk
  rw [Config.svWord, BitVec.getLsbD_or, BitVec.getLsbD_or, BitVec.getLsbD_and, BitVec.getLsbD_not, BitVec.getLsbD_or, hvalid,
    getLsbD_oneBit_shiftLeft en 4 hk]
  cases c.inUseMask.getLsbD k with
  | true => simp
  | false => by_cases hpos : k = 4 <;> simp [hpos, hk]

/-- Settles O12: the formula is the definition's, and its bits are those of the three words it joins. -/
theorem setValidityWordBits : Obligations.SetValidityWordBits := fun c w en _ => ⟨rfl, fun _ hk => c.getLsbD_svWord w en hk⟩

/-- The in-use marker holds no bit 4, so the written word's valid bit is en (00_scope R8). -/
theorem Config.validBit_svWord {c : Config} (h : c.wf = true) (w : Word) (en : BitVec 1) :
    validBit (c.svWord w en) = en.getLsbD 0 := by
  obtain ⟨-, -, -, ⟨-, hvalid, -⟩, -⟩ := Config.fields_of_wf h
  rw [validBit, c.getLsbD_svWord w en (by decide), hvalid]
  rfl

/-- Every bit of the in-use marker is 1 in the written word. -/
theorem Config.svWord_and_inUseMask (c : Config) (w : Word) (en : BitVec 1) : c.svWord w en &&& c.inUseMask = c.inUseMask := by
  apply BitVec.eq_of_getLsbD_eq
  intro k hk
  rw [BitVec.getLsbD_and, c.getLsbD_svWord w en hk]
  cases c.inUseMask.getLsbD k <;> simp

end Sys2Proof
end

section
/-! PROOFS. The two steps of SET_VALIDITY, alone and in a run with no other agent between (42_set_validity R140, R143). -/

namespace Sys2Proof.Machine

/-! ### The steps -/

theorem exec_setvalid_of_svrd {s : State} (f : BitVec 8) (en : BitVec 1) (r : BitVec 19) (h : s.phase = .svrd) :
    exec (.setvalid f en r) s = .next (s.svrdStep f) := by
  simp [exec, execSetvalid, h]

theorem exec_setvalid_of_svwr {s : State} (f : BitVec 8) (en : BitVec 1) (r : BitVec 19) (h : s.phase = .svwr) :
    exec (.setvalid f en r) s = .next (s.svwrStep f en) := by
  simp [exec, execSetvalid, h]

/-- Settles O22: the SVRD step is the read kept in W, the SVWR step is the write and Done. -/
theorem setValiditySteps : Obligations.SetValiditySteps := fun s f en r =>
  ⟨exec_setvalid_of_svrd f en r, fun hp => (exec_setvalid_of_svwr f en r hp).trans (congrArg _ (s.finish_memWrite _ _))⟩

/-! ### The run -/

section
variable {s : State} {f : BitVec 8}

/-- A control register whose `read_only` is 0 takes a write; an offset that is no FIFO's takes every write (20_memory R63). -/
theorem State.busyAt_ctrlOff_of_free (hfree : s.cfg.readOnly (s.fcr f.toNat) = false) :
    s.busyAt (s.cfg.ctrlOff f.toNat) = false :=
  Bool.and_eq_false_iff.2 (.inr hfree)

/-- Everything the SVWR step changes on a register that is not busy (42_set_validity R140). -/
theorem State.svwrStep_of_free (hfree : s.cfg.readOnly (s.fcr f.toNat) = false) (en : BitVec 1) :
    s.svwrStep f en
      = { s with
          phase := .idle, rs := (s.svwrStep f en).rs
          hist := s.hist ++ [.wr (s.cfg.ctrlOff f.toNat) (s.cfg.svWord s.w en), .done s.lCmd] } := by
  rw [State.svwrStep, State.memWrite_eq, State.store_free (State.busyAt_ctrlOff_of_free hfree)]
  simp [State.finish]

/-- The word lands on a register that is not busy. -/
theorem State.fcr_svwrStep (hfree : s.cfg.readOnly (s.fcr f.toNat) = false) (en : BitVec 1) :
    (s.svwrStep f en).fcr f.toNat = s.cfg.svWord s.w en := by
  rw [State.fcr, State.svwrStep, State.finish_cfg, State.memWrite_cfg]
  exact State.rsWord_memWrite_same (State.busyAt_ctrlOff_of_free hfree)

/-- SET_VALIDITY takes two steps after its acceptance (R140, R250). -/
theorem run_setvalid {en : BitVec 1} {r : BitVec 19} (hwf : s.cfg.wf = true) (hsched : s.sched = []) (hphase : s.phase = .svrd)
    (hword : decode s.lCmd = .ok (.setvalid f en r)) : run 2 s = .next ((s.svrdStep f).svwrStep f en) := by
  have hread : step s = .next (s.svrdStep f) :=
    (step_of_running hwf hsched (by simp [hphase]) hword).trans (exec_setvalid_of_svrd f en r hphase)
  have hwrite : step (s.svrdStep f) = .next ((s.svrdStep f).svwrStep f en) :=
    (step_of_running (s := s.svrdStep f) hwf hsched Phase.noConfusion hword).trans (exec_setvalid_of_svwr f en r rfl)
  rw [run_succ 1 hread]
  exact run_succ 0 hwrite

end

/-- Settles O30: the SVRD step leaves RS and the configuration as they were, so the register is still free at SVWR, and the word computed
from the sample lands in it. -/
theorem setValidityRun : Obligations.SetValidityRun := by
  intro s f en r hwf hsched hphase hword hfree
  have hfcr : ((s.svrdStep f).svwrStep f en).fcr f.toNat = s.cfg.svWord (s.fcr f.toNat) en :=
    State.fcr_svwrStep (s := s.svrdStep f) hfree en
  refine ⟨_, run_setvalid hwf hsched hphase hword, ?_, hfcr, ?_, ?_⟩
  · refine (State.svwrStep_of_free (s := s.svrdStep f) hfree en).trans ?_
    simp [State.svrdStep, State.fcr]
  · rw [hfcr, Config.validBit_svWord hwf]
  · rw [hfcr, Config.svWord_and_inUseMask]

end Sys2Proof.Machine
end

section
/-! PROOFS. The words SET_CONTROL commits, bit by bit: the extra-flag bits (43_set_control R157), the enabled word (R156) and the
disabled word (R159). -/

namespace Sys2Proof

/-! ### The extra-flag bits -/

theorem getLsbD_bit {p : Nat} (hp : p < 32) (k : Nat) : (bit p).getLsbD k = decide (k = p) :=
  (BitVec.getLsbD_twoPow p k).trans (by simp [hp, eq_comm])

/-- The extra-flag bits are those of `XF_MASK_v`, each carrying x (10_state R40, R157). -/
theorem Config.getLsbD_xfBits (c : Config) (x : BitVec 1) (k : Nat) :
    (c.xfBits x).getLsbD k = (c.xfMask.getLsbD k && x.getLsbD 0) := by
  by_cases hk : k < 32
  · rw [Config.xfBits, Config.xfMask]
    cases c.variant with
    | a => rw [getLsbD_oneBit_shiftLeft x 18 hk, getLsbD_bit (by decide)]
    | b | c =>
      simp only [BitVec.getLsbD_or, getLsbD_oneBit_shiftLeft x _ hk, getLsbD_bit, Nat.reduceLT, Bool.and_or_distrib_right]
  · rw [BitVec.getLsbD_of_ge _ k (by omega), BitVec.getLsbD_of_ge c.xfMask k (by omega), Bool.false_and]

/-- Settles O13: the positions are those of `XF_MASK_v` for the variant. -/
theorem extraFlagBits : Obligations.ExtraFlagBits := by
  intro c x k
  rw [c.getLsbD_xfBits, Config.xfMask]
  refine ⟨fun hv => ?_, fun hv => ?_, fun hv => ?_⟩
  · rw [hv, getLsbD_bit (by decide)]
  · rw [hv, BitVec.getLsbD_or, getLsbD_bit (by decide), getLsbD_bit (by decide), Bool.decide_or]
  · rw [hv, BitVec.getLsbD_or, getLsbD_bit (by decide), getLsbD_bit (by decide), Bool.decide_or]

/-! ### The enabled word -/

/-- A field of n bits that stands at bit p sets no bit outside its place. -/
theorem range_of_getLsbD_setWidth_shiftLeft {n p k : Nat} {x : BitVec n} (h : (x.setWidth 32 <<< p).getLsbD k = true) :
    p ≤ k ∧ k < p + n := by
  simp only [BitVec.getLsbD_shiftLeft, BitVec.getLsbD_setWidth, Bool.and_eq_true, Bool.not_eq_true', decide_eq_true_eq,
    decide_eq_false_iff_not] at h
  obtain ⟨⟨-, hp⟩, -, hx⟩ := h
  have hn := BitVec.lt_of_getLsbD hx
  omega

/-- The five fields at fixed places are in `SWF_v` (10_state R38, R42). -/
theorem Config.getLsbD_swf_of_low (c : Config) {k : Nat} (hlow : 1 ≤ k ∧ k < 6) : c.swf.getLsbD k = true := by
  have hfixed : (0x0000003E : Word).getLsbD k = true := by
    obtain ⟨h1, h6⟩ := hlow
    interval_cases k <;> rfl
  rw [Config.swf, BitVec.getLsbD_or, BitVec.getLsbD_or, BitVec.getLsbD_or, hfixed, Bool.true_or, Bool.true_or, Bool.true_or]

/-- Every bit of the enabled word is in `SWF_v`: each of the seven parts stands inside its own field (R156). -/
theorem Config.getLsbD_swf_of_enWord {c : Config} {ctrl : BitVec 1} {prio : BitVec 2} {empty xf : BitVec 1} {k : Nat}
    (h : (c.enWord ctrl prio empty xf).getLsbD k = true) : c.swf.getLsbD k = true := by
  simp only [Config.enWord, BitVec.getLsbD_or, Bool.or_eq_true] at h
  obtain (((((hfield | hctrl) | hprio) | hvalid) | hmarker) | hempty) | hflag := h
  · rw [BitVec.shiftLeft_and_distrib, BitVec.getLsbD_and, Bool.and_eq_true] at hfield
    simp [Config.swf, -BitVec.getLsbD_shiftLeft, hfield.2]
  · have hk := range_of_getLsbD_setWidth_shiftLeft hctrl
    exact c.getLsbD_swf_of_low (by omega)
  · have hk := range_of_getLsbD_setWidth_shiftLeft hprio
    exact c.getLsbD_swf_of_low (by omega)
  · have hk := range_of_getLsbD_setWidth_shiftLeft (x := 1#1) hvalid
    exact c.getLsbD_swf_of_low (by omega)
  · simp [Config.swf, -BitVec.getLsbD_shiftLeft, hmarker]
  · have hk := range_of_getLsbD_setWidth_shiftLeft hempty
    exact c.getLsbD_swf_of_low (by omega)
  · rw [c.getLsbD_xfBits, Bool.and_eq_true] at hflag
    simp [Config.swf, -BitVec.getLsbD_shiftLeft, hflag.1]

/-- Bit 4 of the enabled word is the constant 1 of its valid field (R156). -/
theorem Config.validBit_enWord (c : Config) (ctrl : BitVec 1) (prio : BitVec 2) (empty xf : BitVec 1) :
    validBit (c.enWord ctrl prio empty xf) = true := by
  have hvalid : (1#32 <<< 4).getLsbD 4 = true := rfl
  simp only [validBit, Config.enWord, BitVec.getLsbD_or, hvalid, Bool.or_true, Bool.true_or]

/-- Settles O14: the enabled word lies inside `SWF_v`, and `RO_BIT` outside it. The enable constant 2 has its 1 at bit 1, past a field of
width 1. -/
theorem enabledWord : Obligations.EnabledWord := by
  intro c ctrl prio empty xf hwf
  obtain ⟨-, -, ⟨-, hro⟩, -⟩ := Config.fields_of_wf hwf
  refine ⟨rfl, c.validBit_enWord ctrl prio empty xf, ?_, ?_, fun hw => ?_⟩
  · exact Bool.eq_false_of_not_eq_true fun h => Bool.eq_false_iff.1 hro (Config.getLsbD_swf_of_enWord h)
  · refine BitVec.eq_of_getLsbD_eq fun k hk => ?_
    refine Eq.trans ?_ BitVec.getLsbD_zero.symm
    rw [BitVec.getLsbD_and, BitVec.getLsbD_not]
    cases h : (c.enWord ctrl prio empty xf).getLsbD k with
    | false => rfl
    | true => rw [Config.getLsbD_swf_of_enWord h, Bool.not_true, Bool.and_false, Bool.and_false]
  · have hpast : 2 &&& mask c.efWidth = 0 := by
      rw [hw]
      decide
    rw [hpast]
    exact BitVec.zero_shiftLeft _

/-! ### The disabled word -/

/-- The extra-flag and residual bits are cleared, then FIFO_BITS_v is set (R159). -/
theorem Config.getLsbD_disWord (c : Config) (w : Word) {k : Nat} (hk : k < 32) :
    (c.disWord w).getLsbD k = ((w.getLsbD k && !(c.xfMask.getLsbD k || c.resid.getLsbD k)) || c.fifoBits.getLsbD k) := by
  rw [Config.disWord, BitVec.getLsbD_or, BitVec.getLsbD_and, BitVec.getLsbD_not, BitVec.getLsbD_or, decide_eq_true hk, Bool.true_and]

/-- Settles O15: the residual mask holds bit 4 and FIFO_BITS_v does not (00_scope R8); the other clauses read off the bits. -/
theorem disabledWord : Obligations.DisabledWord := by
  intro c w hwf
  obtain ⟨hresid, hfifo⟩ := Config.disabled_of_wf hwf
  refine ⟨?_, BitVec.eq_of_getLsbD_eq fun k hk => ?_, fun k hk hxf hres hbits => ?_⟩
  · rw [validBit, c.getLsbD_disWord w (by decide), hresid, hfifo, Bool.or_true, Bool.not_true, Bool.and_false, Bool.or_false]
  · rw [BitVec.getLsbD_and, BitVec.getLsbD_and, c.getLsbD_disWord w hk]
    cases c.xfMask.getLsbD k <;> simp
  · rw [c.getLsbD_disWord w hk, hxf, hres, hbits]
    simp

end Sys2Proof
end

section
/-! PROOFS. The steps of SET_CONTROL one by one (43_set_control R151, R152, R154, R160, R161): acceptance, POLL, COMMIT, FLUSH. -/

namespace Sys2Proof.Machine

/-- Settles O19: acceptance is `State.begin`, written out for SET_CONTROL. -/
theorem acceptSetctl : Obligations.AcceptSetctl := fun _ _ _ _ _ _ _ _ hidle _ => exec_of_idle _ hidle

section
variable {s : State} (f : BitVec 8) (c : BitVec 1) (p : BitVec 2) (e v x : BitVec 1) (r : BitVec 14)

theorem exec_setctl_of_poll (h : s.phase = .poll) : exec (.setctl f c p e v x r) s = .next (s.pollStep f v) := by
  simp [exec, execSetctl, h]

theorem exec_setctl_of_commit (h : s.phase = .commit) : exec (.setctl f c p e v x r) s = .next (s.commitStep f c p e x) := by
  simp [exec, execSetctl, h]

theorem exec_setctl_of_flush (h : s.phase = .flush) : exec (.setctl f c p e v x r) s = .next (s.flushStep f) := by
  simp [exec, execSetctl, h]

end

/-! ### POLL -/

section
variable {s : State} {f : BitVec 8} (v : BitVec 1)

/-- A read that finds the register writable ends Phase 1, whatever the ceiling (R152). -/
theorem State.pollStep_of_free (hfree : s.cfg.readOnly (s.fcr f.toNat) = false) :
    s.pollStep f v = (s.pollRead f).reportPolls.selectPath v :=
  if_neg (Bool.eq_false_iff.1 hfree)

/-- The first busy read past the ceiling times out and ends Phase 1 (R153). -/
theorem State.pollStep_of_timeout (hbusy : s.cfg.readOnly (s.fcr f.toNat) = true) (hlim : s.lLim.toNat < (s.polls + 1).toNat) :
    s.pollStep f v = ((s.pollRead f).raiseTimeout f (s.fcr f.toNat)).reportPolls.selectPath v :=
  (if_pos hbusy).trans (if_pos hlim)

/-- A busy read within the ceiling is followed by another (R152). -/
theorem State.pollStep_of_retry (hbusy : s.cfg.readOnly (s.fcr f.toNat) = true) (hlim : (s.polls + 1).toNat ≤ s.lLim.toNat) :
    s.pollStep f v = (s.pollRead f).goto .poll :=
  (if_pos hbusy).trans (if_neg (Nat.not_lt.2 hlim))

end

/-- Everything path selection changes (R154). -/
theorem State.selectPath_eq (s : State) (v : BitVec 1) :
    s.selectPath v
      = { s with
          path := pathOf v s.w
          phase := if (pathOf v s.w).clears then .clr else .commit
          slot := if (pathOf v s.w).clears then s.cfg.lastSlot else s.slot } := by
  obtain ⟨hclears, he⟩ | ⟨hkeeps, he⟩ := s.selectPath_cases v <;> rw [he]
  · simp only [hclears, if_true]
  · simp only [hkeeps, Bool.false_eq_true, if_false]

/-- The table of R154, row by row. -/
theorem State.selectPath_table (s : State) (v : BitVec 1) :
    s.selectPath v
      = if v = 1 then
          if s.w.getLsbD 4 then { s with path := .enKeep, phase := .commit }
          else { s with path := .enNew, phase := .clr, slot := s.cfg.lastSlot }
        else if s.w.getLsbD 4 then { s with path := .disNew, phase := .commit }
        else { s with path := .disKeep, phase := .clr, slot := s.cfg.lastSlot } := by
  by_cases hv : v = 1 <;> by_cases hvalid : s.w.getLsbD 4 = true
  all_goals simp only [State.selectPath_eq, pathOf, validBit, Path.clears, hv, hvalid, if_true, if_false, Bool.false_eq_true]

/-- The read, the timeout and the report of a busy read past the ceiling (R152, R153). -/
theorem State.timeoutPoll_eq (s : State) (f : BitVec 8) :
    ((s.pollRead f).raiseTimeout f (s.fcr f.toNat)).reportPolls
      = { s with
          w := s.fcr f.toNat, polls := s.polls + 1, pollCount := s.polls + 1, timeout := true
          hist := s.hist ++ [.rd (s.cfg.ctrlOff f.toNat) (s.fcr f.toNat), .log f (s.fcr f.toNat)] } := by
  simp [State.reportPolls, State.raiseTimeout, State.pollRead, State.memRead, State.emit, State.fcr]

/-- Settles O23: the read selects the case of R152, the sampled word and the requested `valid` the row of R154. -/
theorem pollStep : Obligations.PollStep := by
  intro s f c p e v x r hpoll
  rw [exec_setctl_of_poll f c p e v x r hpoll]
  refine ⟨fun hfree => ?_, fun hbusy hlim => ?_, fun hbusy hlim => ?_⟩
  · rw [State.pollStep_of_free v hfree, State.selectPath_table]
    rfl
  · rw [State.pollStep_of_timeout v hbusy hlim, State.timeoutPoll_eq, State.selectPath_table]
    rfl
  · rw [State.pollStep_of_retry v hbusy hlim, State.goto, ← hpoll]
    rfl

/-! ### COMMIT and FLUSH -/

/-- Settles O24: the word is that of the path in PATH. -/
theorem commitStep : Obligations.CommitStep := by
  intro s f c p e v x r hcommit
  rw [exec_setctl_of_commit f c p e v x r hcommit, State.commitStep]
  refine ⟨fun hpath => ?_, fun hpath => ?_, fun hpath => ?_, fun hpath => ?_⟩ <;> rw [hpath] <;> rfl

/-- Everything the FLUSH step changes: its read and Done in the history, and the phase (R161). -/
theorem State.flushStep_eq (s : State) (f : BitVec 8) :
    s.flushStep f
      = { s with hist := s.hist ++ [.rd (s.cfg.ctrlOff f.toNat) (s.rsWord (s.cfg.ctrlOff f.toNat)), .done s.lCmd], phase := .idle } := by
  simp [State.flushStep, State.finish, State.memRead, State.emit]

/-- Settles O25: the value read goes into the event and nowhere else. -/
theorem flushStep : Obligations.FlushStep := fun s f c p e v x r hflush =>
  (exec_setctl_of_flush f c p e v x r hflush).trans (congrArg _ (s.flushStep_eq f))

end Sys2Proof.Machine
end

section
/-! PROOFS. SET_CONTROL in runs with no other agent between its steps (43_set_control R150 to R165, 70_reset_and_hazards R250): the steps
from the read that ends Phase 1 to Done, and a Phase 1 that times out. -/

namespace Sys2Proof.Machine

/-- With nothing scheduled SET_CONTROL takes its POLL step. -/
theorem step_of_poll {s : State} {f : BitVec 8} {c : BitVec 1} {p : BitVec 2} {e v x : BitVec 1} {r : BitVec 14} (hwf : s.cfg.wf = true)
    (hsched : s.sched = []) (hpoll : s.phase = .poll) (hword : decode s.lCmd = .ok (.setctl f c p e v x r)) :
    step s = .next (s.pollStep f v) :=
  (step_of_running hwf hsched (by simp [hpoll]) hword).trans (exec_setctl_of_poll f c p e v x r hpoll)

/-! ### From path selection to COMMIT -/

/-- The clear steps path selection asks for (43_set_control R154). -/
def State.clearsToCommit (s : State) (v : BitVec 1) : Nat := if (pathOf v s.w).clears then s.cfg.slotCount else 0

/-- Where SET_CONTROL commits after path selection in state s, up to what the clear leaves in SLOT and RS. -/
def State.atCommit (s : State) (f : BitVec 8) (v : BitVec 1) (slot : Word) (rs : Memory) : State :=
  { s with
    phase := .commit, path := pathOf v s.w, slot := slot, rs := rs
    hist := s.hist ++ clearWrites s.cfg f.toNat (s.clearsToCommit v) }

section
variable {s : State} {f : BitVec 8} {c : BitVec 1} {p : BitVec 2} {e v x : BitVec 1} {r : BitVec 14}

/-- A clear of the whole working memory takes one step per slot, the last of which goes to COMMIT (41_clear_init R121). It loses no write,
so it takes no draw, and it leaves the control register alone. -/
theorem run_clearToCommit (hwf : s.cfg.wf = true) (hsched : s.sched = []) (hclr : s.phase = .clr)
    (hword : decode s.lCmd = .ok (.setctl f c p e v x r)) (hf : f.toNat < s.cfg.numFifos) (h : s.AtSlot s.cfg.slotCount) :
    ∃ slot rs, run s.cfg.slotCount s
        = .next { s with phase := .commit, slot := slot, rs := rs, hist := s.hist ++ clearWrites s.cfg f.toNat s.cfg.slotCount }
      ∧ Memory.readWord rs (s.cfg.ctrlOff f.toNat) = s.fcr f.toNat
      ∧ ∀ k, k < s.cfg.slotCount → Memory.readWord rs (s.cfg.workOff f.toNat (BitVec.ofNat 32 k)) = 0 := by
  obtain ⟨-, ⟨hpos, hmax⟩, -⟩ := Config.fields_of_wf hwf
  have hrun : run s.cfg.slotCount s = .next ((s.clearSlots f s.cfg.slotCount).goto .commit) := by
    obtain ⟨n, hn⟩ := Nat.exists_eq_add_of_le' hpos
    rw [hn] at h ⊢
    exact run_clear hwf hsched hclr hword rfl (by omega) h
  rw [State.clearSlots_eq h, State.draws_clearSlots hwf hf h le_rfl] at hrun
  have hcfg := s.clearSlots_cfg f s.cfg.slotCount
  refine ⟨_, _, hrun, ?_, fun k hk => ?_⟩
  · rw [← State.fcr_clearSlots hwf hf h le_rfl, State.fcr, hcfg, State.rsWord]
  · rw [← State.fwm_clearSlots hwf hf h hk hk, State.fwm, hcfg, State.rsWord]

/-- After path selection come the clear's steps, one per slot, or none (43_set_control R154, R155). -/
theorem run_selectPath (hwf : s.cfg.wf = true) (hsched : s.sched = []) (hword : decode s.lCmd = .ok (.setctl f c p e v x r))
    (hf : f.toNat < s.cfg.numFifos) :
    ∃ slot rs, run (s.clearsToCommit v) (s.selectPath v) = .next (s.atCommit f v slot rs)
      ∧ (s.atCommit f v slot rs).fcr f.toNat = s.fcr f.toNat
      ∧ ((pathOf v s.w).clears = true → ∀ k, k < s.cfg.slotCount → (s.atCommit f v slot rs).fwm f.toNat k = 0) := by
  obtain ⟨hclears, he⟩ | ⟨hkeeps, he⟩ := s.selectPath_cases v
  · have hsteps : s.clearsToCommit v = s.cfg.slotCount := if_pos hclears
    obtain ⟨slot, rs, hrun, hfcr, hslots⟩ :=
      run_clearToCommit (s := { s with slot := s.cfg.lastSlot, phase := .clr, path := pathOf v s.w }) hwf hsched rfl hword hf rfl
    refine ⟨slot, rs, ?_, hfcr, fun _ => hslots⟩
    rw [State.atCommit, hsteps, he]
    exact hrun
  · have hsteps : s.clearsToCommit v = 0 := if_neg (Bool.eq_false_iff.1 hkeeps)
    refine ⟨s.slot, s.rs, ?_, rfl, fun hclears => absurd hclears (Bool.eq_false_iff.1 hkeeps)⟩
    rw [State.atCommit, hsteps, he, clearWrites, List.append_nil]
    rfl

/-! ### COMMIT and FLUSH -/

/-- COMMIT and FLUSH take one step each (R160, R161). -/
theorem run_commit (hwf : s.cfg.wf = true) (hsched : s.sched = []) (hcommit : s.phase = .commit)
    (hword : decode s.lCmd = .ok (.setctl f c p e v x r)) : run 2 s = .next ((s.commitStep f c p e x).flushStep f) := by
  have hwrite : step s = .next (s.commitStep f c p e x) :=
    (step_of_running hwf hsched (by simp [hcommit]) hword).trans (exec_setctl_of_commit f c p e v x r hcommit)
  have hread : step (s.commitStep f c p e x) = .next ((s.commitStep f c p e x).flushStep f) :=
    (step_of_running (by simpa [State.commitStep] using hwf) (by simpa [State.commitStep] using hsched) Phase.noConfusion
      (by simpa [State.commitStep] using hword)).trans (exec_setctl_of_flush f c p e v x r rfl)
  rw [run_succ 1 hwrite]
  exact run_succ 0 hread

/-- The committed word lands on a register that is not busy (20_memory R63). -/
theorem State.fcr_commitStep (hfree : s.cfg.readOnly (s.fcr f.toNat) = false) :
    (s.commitStep f c p e x).fcr f.toNat = s.cfg.commitWord s.path s.w c p e x := by
  rw [State.fcr, State.commitStep, State.goto_cfg, State.memWrite_cfg]
  exact State.rsWord_memWrite_same (State.busyAt_ctrlOff_of_free hfree)

/-- COMMIT leaves the slots of its FIFO alone. -/
theorem State.fwm_commitStep (hwf : s.cfg.wf = true) (hf : f.toNat < s.cfg.numFifos) {k : Nat} (hk : k < s.cfg.slotCount) :
    (s.commitStep f c p e x).fwm f.toNat k = s.fwm f.toNat k := by
  rw [State.fwm, State.commitStep, State.goto_cfg, State.memWrite_cfg]
  exact State.rsWord_memWrite_other (Config.four_dvd_ctrlOff hwf _) (Config.four_dvd_workOff hwf _ _)
    (Config.ctrlOff_ne_workOff hwf hf hf hk)

/-- Everything COMMIT and FLUSH change on a register that is not busy: the flush reads the committed word back. -/
theorem State.flushStep_commitStep_of_free (hfree : s.cfg.readOnly (s.fcr f.toNat) = false) :
    (s.commitStep f c p e x).flushStep f
      = { s with
          phase := .idle, rs := (s.commitStep f c p e x).rs
          hist := s.hist ++ [.wr (s.cfg.ctrlOff f.toNat) (s.cfg.commitWord s.path s.w c p e x),
            .rd (s.cfg.ctrlOff f.toNat) (s.cfg.commitWord s.path s.w c p e x), .done s.lCmd] } := by
  have hback : (s.commitStep f c p e x).rsWord ((s.commitStep f c p e x).cfg.ctrlOff f.toNat) = _ := State.fcr_commitStep hfree
  rw [State.flushStep_eq, hback, State.commitStep, State.memWrite_eq, State.store_free (State.busyAt_ctrlOff_of_free hfree)]
  simp [State.goto]

@[simp] theorem State.fcr_flushStep (s : State) (f : BitVec 8) (g : Nat) : (s.flushStep f).fcr g = s.fcr g := rfl

@[simp] theorem State.fwm_flushStep (s : State) (f : BitVec 8) (g k : Nat) : (s.flushStep f).fwm g k = s.fwm g k := rfl

/-- What follows Phase 1 on a register that is not busy: the clear leaves it free, so the committed word lands (R155, R158 to R162). -/
theorem run_selectPath_of_free (hwf : s.cfg.wf = true) (hsched : s.sched = []) (hword : decode s.lCmd = .ok (.setctl f c p e v x r))
    (hf : f.toNat < s.cfg.numFifos) (hfree : s.cfg.readOnly (s.fcr f.toNat) = false) :
    let o := s.cfg.ctrlOff f.toNat
    let wn := s.cfg.commitWord (pathOf v s.w) s.w c p e x
    ∃ t, run (s.clearsToCommit v + 2) (s.selectPath v) = .next t
      ∧ t = { s with
          phase := .idle, path := pathOf v s.w, slot := t.slot, rs := t.rs
          hist := s.hist ++ clearWrites s.cfg f.toNat (s.clearsToCommit v) ++ [.wr o wn, .rd o wn, .done s.lCmd] }
      ∧ t.fcr f.toNat = wn
      ∧ ((pathOf v s.w).clears = true → ∀ k, k < s.cfg.slotCount → t.fwm f.toNat k = 0) := by
  obtain ⟨slot, rs, hclear, hfcr, hslots⟩ := run_selectPath hwf hsched hword hf
  have hstill : (s.atCommit f v slot rs).cfg.readOnly ((s.atCommit f v slot rs).fcr f.toNat) = false := by
    rw [hfcr]
    exact hfree
  have hcommit := run_commit (s := s.atCommit f v slot rs) hwf hsched rfl hword
  refine ⟨_, (run_add _ 2 hclear).trans hcommit, ?_, ?_, fun hclears k hk => ?_⟩
  · rw [State.flushStep_commitStep_of_free hstill]
    rfl
  · rw [State.fcr_flushStep, State.fcr_commitStep hstill]
    rfl
  · rw [State.fwm_flushStep, State.fwm_commitStep (s := s.atCommit f v slot rs) hwf hf hk]
    exact hslots hclears k hk

end

/-- Settles O31: the last read of Phase 1 selects the path and leaves the register free. -/
theorem setControlRun : Obligations.SetControlRun := by
  intro s f c p e v x r hwf hsched hpoll hpolls hword hf hfree
  have hread := step_of_poll hwf hsched hpoll hword
  rw [State.pollStep_of_free v hfree] at hread
  obtain ⟨t, hrun, ht, hfcr, hslots⟩ := run_selectPath_of_free (s := (s.pollRead f).reportPolls) hwf hsched hword hf hfree
  refine ⟨t, (run_succ _ hread).trans hrun, ht, ?_, hfcr, hslots⟩
  rw [ht]
  exact toNat_polls_add_one hpolls

/-! ### A Phase 1 that times out -/

/-- The state that selects the path when n reads more, every one of them busy, have reached the ceiling (R152, R153). -/
def State.timedOut (s : State) (f : BitVec 8) (n : Nat) : State :=
  { s with
    phase := .poll, w := s.fcr f.toNat, timeout := true
    polls := BitVec.ofNat 17 (s.lLim.toNat + 1), pollCount := BitVec.ofNat 17 (s.lLim.toNat + 1)
    hist := s.hist ++ List.replicate n (.rd (s.cfg.ctrlOff f.toNat) (s.fcr f.toNat)) ++ [.log f (s.fcr f.toNat)] }

/-- One of these reads goes into the history, the others are still to come. -/
theorem State.timedOut_of_retry (s : State) (f : BitVec 8) (n : Nat) :
    ((s.pollRead f).goto .poll).timedOut f n = s.timedOut f (n + 1) := by
  have hfcr : ((s.pollRead f).goto .poll).fcr f.toNat = s.fcr f.toNat := rfl
  simp [State.timedOut, hfcr, List.replicate_succ]

/-- With n reads left below the ceiling and the register busy, Phase 1 reads n + 1 times and times out: a busy read leaves the register and
the ceiling as they were, so the next one meets the same case. -/
theorem run_busyPolls {s : State} {f : BitVec 8} {c : BitVec 1} {p : BitVec 2} {e v x : BitVec 1} {r : BitVec 14} {n : Nat}
    (hwf : s.cfg.wf = true) (hsched : s.sched = []) (hpoll : s.phase = .poll) (hword : decode s.lCmd = .ok (.setctl f c p e v x r))
    (hbusy : s.cfg.readOnly (s.fcr f.toNat) = true) (hleft : s.polls.toNat + n = s.lLim.toNat) :
    run (n + 1) s = .next ((s.timedOut f (n + 1)).selectPath v) := by
  induction n generalizing s with
  | zero =>
    have hpast := toNat_polls_add_one hleft.le
    have hcount : s.polls + 1 = BitVec.ofNat 17 (s.lLim.toNat + 1) := by
      rw [← hleft, Nat.add_zero, ← hpast, BitVec.ofNat_toNat, BitVec.setWidth_eq]
    rw [run_succ 0 (step_of_poll hwf hsched hpoll hword), State.pollStep_of_timeout v hbusy (by omega), State.timeoutPoll_eq, hcount,
      State.timedOut, ← hpoll, List.append_assoc]
    rfl
  | succ n ih =>
    have hnext := toNat_polls_add_one (show s.polls.toNat ≤ s.lLim.toNat by omega)
    have hrest : run (n + 1) ((s.pollRead f).goto .poll) = .next ((((s.pollRead f).goto .poll).timedOut f (n + 1)).selectPath v) :=
      ih hwf hsched rfl hword hbusy (by rw [State.goto_polls, State.pollRead_polls, State.goto_lLim, State.pollRead_lLim]; omega)
    rw [run_succ (n + 1) (step_of_poll hwf hsched hpoll hword), State.pollStep_of_retry v hbusy (by omega), hrest,
      State.timedOut_of_retry]

/-- Settles O32: POLLS starts at 0, so `run_busyPolls` has L_LIM reads left below the ceiling. -/
theorem pollTimeoutRun : Obligations.PollTimeoutRun := by
  intro s f c p e v x r hwf hsched hpoll hpolls hword hbusy
  refine ⟨_, run_busyPolls hwf hsched hpoll hword hbusy (by simp [hpolls]), ?_⟩
  rw [State.selectPath_eq]
  rfl

end Sys2Proof.Machine
end

section
/-! PROOFS. The Host's accesses to HIF: which are admitted, the eight reads and the eight writes, and what a command request does
(44_host_access R180 to R184). -/

namespace Sys2Proof.Machine

/-! ### Command requests -/

/-- A rejected request takes the rejection of its kind. -/
theorem requestCommand_of_error {s : State} {x : Word} {k : RejectKind} (h : decodeRequest s.cfg.numFifos s.busy x = .error k) :
    requestCommand s x = .next (s.reject k x) := by
  rw [requestCommand, h]

/-- An accepted request takes the command's acceptance, with the written word itself in HCMD and L_CMD: encoding what was decoded
gives it back (30_encoding R92). -/
theorem requestCommand_of_ok {s : State} {x : Word} {i : Instr} (h : decodeRequest s.cfg.numFifos s.busy x = .ok i) :
    requestCommand s x
      = .next { s.accept x with phase := i.firstPhase, slot := i.firstSlot s, polls := i.firstPolls s } := by
  obtain ⟨hbusy, hdecode, -⟩ := decodeRequest_ok_iff.1 h
  have hexec : requestCommand s x = exec i s := by rw [requestCommand, h]
  rw [hexec, exec_of_idle i ((State.not_busy_iff s).1 hbusy), State.begin, encode_of_decode hdecode]

/-- A request always has a step: a rejection is one too. -/
theorem exists_requestCommand_next (s : State) (x : Word) : ∃ t, requestCommand s x = .next t := by
  cases h : decodeRequest s.cfg.numFifos s.busy x with
  | error k => exact ⟨_, requestCommand_of_error h⟩
  | ok i => exact ⟨_, requestCommand_of_ok h⟩

/-- Settles O17: R96's four answers, each with what the request does on it. -/
theorem commandRequest : Obligations.CommandRequest := by
  intro s x
  obtain ⟨hbusy, hopc, hfifo, haccepted⟩ := decodeRequestAnswersByOrder s.cfg.numFifos s.busy x
  refine ⟨fun hrun => ?_, fun hidle hreserved => ?_, fun hidle h1 h4 hnone => ?_, fun hidle hexists => ?_⟩
  · exact requestCommand_of_error (hbusy ((State.busy_iff s).2 hrun))
  · exact requestCommand_of_error (hopc ((State.not_busy_iff s).2 hidle) hreserved)
  · exact requestCommand_of_error (hfifo ((State.not_busy_iff s).2 hidle) h1 h4 hnone)
  · obtain ⟨hclear, hinit, hsetvalid, hsetctl⟩ := haccepted ((State.not_busy_iff s).2 hidle) hexists
    exact ⟨fun h => requestCommand_of_ok (hclear h), fun h => requestCommand_of_ok (hinit h),
      fun h => requestCommand_of_ok (hsetvalid h), fun h => requestCommand_of_ok (hsetctl h)⟩

/-! ### Which accesses are admitted -/

theorem hifAdmits_iff (width : Nat) (o : Word) : hifAdmits width o = true ↔ width = 4 ∧ o.toNat % 4 = 0 ∧ o.toNat ≤ 0x1C := by
  simp [hifAdmits, and_assoc]

theorem hostStep_hifRead_of_admits (s : State) {width : Nat} {o : Word} (h : hifAdmits width o = true) :
    hostStep s (.hifRead width o) = .next (s.hifRead o) := if_pos h

theorem hostStep_hifRead_refused (s : State) {width : Nat} {o : Word} (h : ¬hifAdmits width o = true) :
    hostStep s (.hifRead width o) = .refused .hifAccess := if_neg h

theorem hostStep_hifWrite_of_admits (s : State) {width : Nat} {o : Word} (x : Word) (h : hifAdmits width o = true) :
    hostStep s (.hifWrite width o x) = hifWrite s o x := if_pos h

theorem hostStep_hifWrite_refused (s : State) {width : Nat} {o : Word} (x : Word) (h : ¬hifAdmits width o = true) :
    hostStep s (.hifWrite width o x) = .refused .hifAccess := if_neg h

/-- Every HIF write has a step, that of HCMD because every request has one. -/
theorem exists_hifWrite_next (s : State) (o x : Word) : ∃ t, hifWrite s o x = .next t := by
  obtain ⟨-, h⟩ | ⟨-, h⟩ | ⟨_, _, h⟩ := hifWrite_cases s x (o := o)
  · exact h ▸ exists_requestCommand_next _ x
  · exact ⟨_, h⟩
  · exact ⟨_, h⟩

/-- An outcome that is a next state when P and a refusal when not P decides P both ways. -/
theorem next_iff_and_refused_iff {out : Host.Outcome State Fault Refusal} {P : Prop} {r : Refusal} (hnext : P → ∃ t, out = .next t)
    (hrefused : ¬P → out = .refused r) : ((∃ t, out = .next t) ↔ P) ∧ (out = .refused r ↔ ¬P) := by
  by_cases hP : P
  · obtain ⟨t, rfl⟩ := hnext hP
    simp [hP]
  · obtain rfl := hrefused hP
    simp [hP]

/-- Settles O41: an admitted read and an admitted write each have a step, and any other is refused. -/
theorem hifAdmission : Obligations.HifAdmission := by
  intro s width o x
  obtain ⟨hread, hreadRefused⟩ := next_iff_and_refused_iff
    (fun h => ⟨_, hostStep_hifRead_of_admits s h⟩) (hostStep_hifRead_refused s (width := width) (o := o))
  obtain ⟨hwrite, hwriteRefused⟩ := next_iff_and_refused_iff
    (fun h => hostStep_hifWrite_of_admits s x h ▸ exists_hifWrite_next s o x) (hostStep_hifWrite_refused s (width := width) (o := o) x)
  rw [← hifAdmits_iff]
  exact ⟨hread, hwrite, hreadRefused, hwriteRefused⟩

/-! ### The reads -/

theorem flagBit_eq_ofBool (b : Bool) : flagBit b = BitVec.ofBool b := by cases b <;> rfl

/-- HSTATUS with BUSY as the phase gives it (10_state R24). -/
theorem State.hstatus_eq (s : State) :
    s.hstatus = 0#27 ++ BitVec.ofBool s.errFifo ++ BitVec.ofBool s.errOpc ++ BitVec.ofBool s.errBusy ++ BitVec.ofBool s.timeout
      ++ BitVec.ofBool (decide (s.phase ≠ .idle)) := by
  simp only [State.hstatus, flagBit_eq_ofBool, State.busy, decide_not]

/-- An admitted read returns the value of its register. -/
theorem hostStep_hifRead_value (s : State) {o v : Word} (h : hifAdmits 4 o = true) (hv : s.hifValue o = v) :
    hostStep s (.hifRead 4 o) = .next { s with hist := s.hist ++ [.hifRd o v] } := by
  rw [hostStep_hifRead_of_admits s h, ← hv]
  rfl

/-- Settles O38: the value of each of the eight registers, HPOLL_LIMIT and HPOLL_COUNT with 0 above them. -/
theorem hifReadTable : Obligations.HifReadTable := by
  intro s
  have hlimit : s.limit.setWidth 32 = 0#16 ++ s.limit := BitVec.setWidth_eq_append (by decide)
  have hcount : s.pollCount.setWidth 32 = 0#15 ++ s.pollCount := BitVec.setWidth_eq_append (by decide)
  exact ⟨hostStep_hifRead_value s rfl rfl, hostStep_hifRead_value s rfl rfl, hostStep_hifRead_value s rfl s.hstatus_eq,
    hostStep_hifRead_value s rfl rfl, hostStep_hifRead_value s rfl hlimit, hostStep_hifRead_value s rfl hcount,
    hostStep_hifRead_value s rfl rfl, hostStep_hifRead_value s rfl rfl⟩

/-! ### The writes -/

/-- Settles O39: all eight offsets are admitted, and each write is the row of its register. -/
theorem hifWriteTable : Obligations.HifWriteTable := fun s x =>
  ⟨hostStep_hifWrite_of_admits s x rfl, hostStep_hifWrite_of_admits s x rfl, hostStep_hifWrite_of_admits s x rfl,
    hostStep_hifWrite_of_admits s x rfl, hostStep_hifWrite_of_admits s x rfl, hostStep_hifWrite_of_admits s x rfl,
    hostStep_hifWrite_of_admits s x rfl, hostStep_hifWrite_of_admits s x rfl⟩

/-- Settles O40: the write is `State.clearFlags`, each flag of it written as a choice. -/
theorem hstatusWriteOneToClear : Obligations.HstatusWriteOneToClear := by
  intro s x
  obtain ⟨-, -, hwrite, -⟩ := hifWriteTable s x
  simp only [hwrite, State.clearFlags, Bool.if_false_left, Bool.decide_eq_true, Bool.and_comm]

end Sys2Proof.Machine
end

section
/-! PROOFS. The bound an accepted command starts with (70_reset_and_hazards R252), and reset (R230, R231). -/

namespace Sys2Proof.Machine

/-! ### The steps a clear starts with -/

/-- CLEAR_WD takes one step per slot of its count, and one step when there is none (41_clear_init R120, R121). -/
theorem clearLeft_clearFirstSlot (arg : Word) : clearLeft (clearFirstSlot arg) = (max (clearCount arg) 1).toNat := by
  unfold clearFirstSlot
  split_ifs with hcount
  · have hlast : (arg - 1).toInt = clearCount arg - 1 := toInt_sub_one (Int.le_trans (by decide) hcount)
    rw [clearLeft, if_neg (by omega), hlast]
    omega
  · have hnone : clearLeft (-1) = 1 := by decide
    rw [hnone]
    omega

/-- A clear of the whole working memory takes one step per slot (41_clear_init R124). -/
theorem clearLeft_lastSlot {c : Sys2Proof.Config} (h : c.wf = true) : clearLeft c.lastSlot = c.slotCount := by
  obtain ⟨-, ⟨hpos, hmax⟩, -⟩ := Config.fields_of_wf h
  have hcount : (BitVec.ofNat 32 c.slotCount).toInt = c.slotCount := by
    rw [BitVec.toInt_ofNat', Int.bmod_eq_of_le (by omega) (by omega)]
  have hlast : c.lastSlot.toInt = c.slotCount - 1 := by rw [Sys2Proof.Config.lastSlot, toInt_sub_one (by omega), hcount]
  rw [clearLeft, if_neg (by omega), hlast]
  omega

/-! ### Acceptance -/

/-- A command that starts with a clear has that clear left, then what follows it. -/
theorem State.begin_remaining_of_clr (s : State) {i : Instr} (h : i.firstPhase = .clr) :
    (s.begin i).remaining = clearLeft (i.firstSlot s) + afterClear i :=
  State.remaining_of_clr h (decode_encode i)

/-- The bound right after acceptance, by the phase each command starts in (10_state R35). -/
theorem State.begin_remaining {s : State} (hwf : s.cfg.wf = true) (i : Instr) :
    (s.begin i).remaining = stepBound s.cfg s.harg s.limit i := by
  cases i with
  | clear f r =>
    rw [s.begin_remaining_of_clr rfl]
    exact clearLeft_clearFirstSlot s.harg
  | init f r =>
    rw [s.begin_remaining_of_clr rfl]
    exact congrArg (· + 1) (clearLeft_lastSlot hwf)
  | setvalid f en r => rfl
  | setctl f c p e v x r =>
    have hleft : (s.begin (.setctl f c p e v x r)).remaining = s.limit.toNat + 1 + s.cfg.slotCount + 2 :=
      State.remaining_of_poll rfl
    rw [hleft, stepBound]
    omega

/-- The ceiling and SLOT_COUNT at their greatest bound every SET_CONTROL (10_state R28, 00_scope R8). -/
theorem stepBound_setctl_le {c : Sys2Proof.Config} (h : c.wf = true) (arg : Word) (lim : BitVec 16) (f : BitVec 8) (ctrl : BitVec 1)
    (p : BitVec 2) (e v x : BitVec 1) (r : BitVec 14) : stepBound c arg lim (.setctl f ctrl p e v x r) ≤ 65535 + 2 ^ 16 + 3 := by
  obtain ⟨-, ⟨-, hmax⟩, -⟩ := Config.fields_of_wf h
  have hlim := lim.isLt
  rw [stepBound]
  omega

/-- Settles O33: the one next state is the acceptance's, whose bound is known. -/
theorem acceptedCommandIsBounded : Obligations.AcceptedCommandIsBounded := by
  intro i s t hwf hidle hexec
  cases (exec_of_idle i hidle).symm.trans hexec
  refine ⟨State.begin_remaining hwf i, fun f c p e v x r hi => ?_⟩
  rw [State.begin_remaining hwf, hi]
  exact stepBound_setctl_le hwf ..

/-! ### Reset -/

/-- Settles O47: a reset turn is `State.doReset`, whatever the phase. -/
theorem resetAbandonsAndKeepsRs : Obligations.ResetAbandonsAndKeepsRs := by
  intro s hwf hreset
  have hstep : step s = .next s.popTurn.doReset := by rw [step_eq_takeTurn hwf, hreset, takeTurn]
  exact ⟨_, hstep, rfl, rfl, rfl⟩

end Sys2Proof.Machine
end
